-- ==== Sys2Proof/Config.lean ====
section
/-! DEFINITION. What an SFS-1 fixes (00_scope.md R7), the platform's open parameter, and the one free value. -/

namespace Sys2Proof.Config

/-- The value of register ID, "SFS1" in ASCII (10_state.md R23). -/
def idValue : BitVec 32 := 0x53465331#32

/-- UNITB: the most bytes in one read unit (R7). -/
abbrev unitBytes : Nat := 8

/-- BUFD: hex digits in each digit buffer (R7, 10_state.md R54). -/
abbrev bufDigits : Nat := 128

/-- PATD: the most pattern digits, which is also the length of one unit's whole text (R7). -/
abbrev patDigits : Nat := 16

/-- The digits of one axis group: 3 fields of 16 bits (00_scope.md, glossary; 43_field_remap.md R175). -/
abbrev groupDigits : Nat := 12

/-- The greatest legal frame length FRMK.K, in units (R7, 10_state.md R47). -/
abbrev maxFrameUnits : Nat := 8

/-- SFS_BASE: the platform's base address of the register window (20_memory.md R78, 92_eei_decisions.md D4).
No SFS behaviour depends on it: a host access of the model carries the offset within the window
(log entry 7). -/
opaque sfsBase : Nat

/-- FREE VALUE: the text of a unit under the reserved rendering mode REND = 0b11, which "never reaches this
function" (41_pattern_matcher.md R123; log entry 6). Nothing can be proved of it. -/
opaque reservedModeText : BitVec 64 → Nat → List (BitVec 4)

end Sys2Proof.Config
end

