-- ==== Sys2Proof/Word.lean ====
section
/-! DEFINITION. The bit vectors the spec's notation names (00_scope.md R7 to R9), and the two digit buffers' names. -/

namespace Sys2Proof

/-- A host register, and a command word: REGW = 32 bits (R7). -/
abbrev Word := BitVec 32

/-- A byte offset in the 4 KiB register window: OFFW = 12 bits (R7). -/
abbrev Offset := BitVec 12

/-- A hexadecimal digit, 4 bits (R9). -/
abbrev Digit := BitVec 4

/-- The value of one read unit, and the eight lanes of the unit port: VALW = 64 bits (R7, 20_memory.md R66). -/
abbrev UnitValue := BitVec 64

/-- A digit buffer: BUFD = 128 digits, index 0 first (10_state.md R54). -/
abbrev Buffer := Vector Digit Config.bufDigits

/-- The two digit buffers, as S and D of a command name them: 0 = A, 1 = B (30_encoding.md R87). -/
inductive BufSel where
  | a
  | b
deriving DecidableEq, Repr

end Sys2Proof
end

