-- ==== Sys2Proof/Syntax.lean ====
section
/-! DEFINITION. The SFS's commands, one constructor per row of the opcode map (30_encoding.md R91), operands in the
order of the assembler's syntax (R95). -/

namespace Sys2Proof

/-- A command. Digit indices and counts are the numbers FA and FB stand for, "unsigned 7-bit immediates,
zero-extended" (R88); `Instr.wellFormed` says that they fit their fields. -/
inductive Instr where
  /-- NOP: `nop` (40_command_control.md R104). -/
  | nop
  /-- SCANA: `scana`, the address scan (41_pattern_matcher.md R127, R128). -/
  | scana
  /-- SCANS: `scans`, the sentinel scan and frame capture (41_pattern_matcher.md R131 to R134). -/
  | scans
  /-- ABORT: `abort` (40_command_control.md R105, R106). -/
  | abort
  /-- REORD: `reord <s>, <d>, <hi>, <lo>` (42_endian_reorder.md R160). -/
  | reord (src dst : BufSel) (hi lo : Nat)
  /-- REMAP: `remap <s>, <d>, <base>, <g>` (43_field_remap.md R175). -/
  | remap (src dst : BufSel) (base groups : Nat)
  /-- CVT: `cvt <s>, <off>` (44_convert_clear.md R190). -/
  | cvt (src : BufSel) (off : Nat)
  /-- CLR: `clr <s>` (44_convert_clear.md R195). -/
  | clr (src : BufSel)
deriving DecidableEq, Repr

end Sys2Proof
end

