-- ==== Sys2Proof/WellFormed.lean ====
section
/-! DEFINITION. Which commands can be written as a command word: an assembler "refuses an operand that does not fit its
field" (30_encoding.md R95). A command's own range rule is no part of it: the SFS checks that at dispatch. -/

namespace Sys2Proof

/-- A number fits FA or FB: 0 to 127 (R88, R95). -/
def fitsField (n : Nat) : Bool := decide (n < 128)

/-- Every operand fits its field (R95). -/
def Instr.wellFormed : Instr → Bool
  | .nop => true
  | .scana => true
  | .scans => true
  | .abort => true
  | .reord _ _ hi lo => fitsField hi && fitsField lo
  | .remap _ _ base groups => fitsField base && fitsField groups
  | .cvt _ off => fitsField off
  | .clr _ => true

end Sys2Proof
end

