-- ==== Sys2Proof/Decode.lean ====
section
/-! DEFINITION. Decoding a command word (30_encoding.md R85 to R94), total on 32-bit words, and the encoder. -/

namespace Sys2Proof

/-- Why a word is illegal (R93), by name. Both end the command with ILLOP. -/
inductive DecodeError where
  /-- OP is 0x8 to 0xF (R86). -/
  | reservedOpcode (op : Digit)
  /-- A reserved bit, or a bit of a field that the row of OP does not use, is 1 (R90). -/
  | nonzeroFixedBits (op : Digit)
deriving DecidableEq, Repr

/-- OP, bits 3:0 (R85). -/
def opField (w : Word) : Digit := w.extractLsb' 0 4

/-- S, bit 4 (R85, R87). -/
def srcField (w : Word) : BufSel := if w.getLsbD 4 then .b else .a

/-- D, bit 5 (R85, R87). -/
def dstField (w : Word) : BufSel := if w.getLsbD 5 then .b else .a

/-- FA, bits 14:8, zero-extended (R88). -/
def faField (w : Word) : Nat := (w.extractLsb' 8 7).toNat

/-- FB, bits 22:16, zero-extended (R88). -/
def fbField (w : Word) : Nat := (w.extractLsb' 16 7).toNat

/-- One row of the opcode map: `w` encodes the row's command when `w & mask = pattern` (R91). -/
structure OpcodeRow where
  pattern : Word
  mask : Word
deriving DecidableEq, Repr

def rowNop : OpcodeRow := ⟨0x00000000#32, 0xFFFFFFFF#32⟩
def rowScana : OpcodeRow := ⟨0x00000001#32, 0xFFFFFFFF#32⟩
def rowScans : OpcodeRow := ⟨0x00000002#32, 0xFFFFFFFF#32⟩
def rowAbort : OpcodeRow := ⟨0x00000003#32, 0xFFFFFFFF#32⟩
def rowReord : OpcodeRow := ⟨0x00000004#32, 0xFF8080CF#32⟩
def rowRemap : OpcodeRow := ⟨0x00000005#32, 0xFF8080CF#32⟩
def rowCvt : OpcodeRow := ⟨0x00000006#32, 0xFFFF80EF#32⟩
def rowClr : OpcodeRow := ⟨0x00000007#32, 0xFFFFFFEF#32⟩

/-- The opcode map, in order of OP (R91). -/
def opcodeMap : List OpcodeRow :=
  [rowNop, rowScana, rowScans, rowAbort, rowReord, rowRemap, rowCvt, rowClr]

/-- `w & mask = pattern` (R91). -/
def OpcodeRow.fits (r : OpcodeRow) (w : Word) : Bool := w &&& r.mask == r.pattern

/-- `i`, when the word fits the row; else the word is illegal (R92). -/
def OpcodeRow.select (r : OpcodeRow) (w : Word) (i : Instr) : Except DecodeError Instr :=
  if r.fits w then .ok i else .error (.nonzeroFixedBits (opField w))

/-- R92: the row that OP selects, if the word fits it; every other word is illegal. -/
def decode (w : Word) : Except DecodeError Instr :=
  match (opField w).toNat with
  | 0 => rowNop.select w .nop
  | 1 => rowScana.select w .scana
  | 2 => rowScans.select w .scans
  | 3 => rowAbort.select w .abort
  | 4 => rowReord.select w (.reord (srcField w) (dstField w) (fbField w) (faField w))
  | 5 => rowRemap.select w (.remap (srcField w) (dstField w) (faField w) (fbField w))
  | 6 => rowCvt.select w (.cvt (srcField w) (faField w))
  | 7 => rowClr.select w (.clr (srcField w))
  | _ => .error (.reservedOpcode (opField w))

/-- The word whose bits are `w`, as the opcode table numbers them, through the decoder: one little-endian 32-bit
command word (R8, R94). -/
def decodeTableWord (nbits w : Nat) : Option Instr :=
  let bits := w % 2 ^ nbits
  if bits < 2 ^ 32 then (decode (BitVec.ofNat 32 bits)).toOption else none

/-! ## The encoder -/

/-- The bit of S or D that names a buffer (R87). -/
def BufSel.bit : BufSel → BitVec 1
  | .a => 0#1
  | .b => 1#1

/-- A CW word from its fields, bit 31 first: `rrrrrrrr rBBBBBBB rAAAAAAA rrDSOOOO` (R85). -/
def cwWord (fb fa : BitVec 7) (d s : BitVec 1) (op : Digit) : Word :=
  0#9 ++ fb ++ 0#1 ++ fa ++ 0#2 ++ d ++ s ++ op

/-- The word of a well-formed command (R89, R95). -/
def encode : Instr → Word
  | .nop => cwWord 0 0 0 0 0x0
  | .scana => cwWord 0 0 0 0 0x1
  | .scans => cwWord 0 0 0 0 0x2
  | .abort => cwWord 0 0 0 0 0x3
  | .reord src dst hi lo => cwWord (.ofNat 7 hi) (.ofNat 7 lo) dst.bit src.bit 0x4
  | .remap src dst base groups => cwWord (.ofNat 7 groups) (.ofNat 7 base) dst.bit src.bit 0x5
  | .cvt src off => cwWord 0 (.ofNat 7 off) 0 src.bit 0x6
  | .clr src => cwWord 0 0 0 src.bit 0x7

end Sys2Proof
end

