-- ==== Sys2Proof/Machine/State.lean ====
section
/-! DEFINITION. The SFS's state (10_state.md), the events that reach it, and the state after reset
(70_reset_and_hazards.md R240). -/

namespace Sys2Proof.Machine

/-- STATUS.PHASE (10_state.md R38). Values 5 to 7 "never occur" and have no constructor. -/
inductive Phase where
  /-- 0: no command in progress. -/
  | idle
  /-- 1: a command is accepted and not yet dispatched. -/
  | pending
  /-- 2: an address scan runs. -/
  | scana
  /-- 3: a sentinel scan runs, sentinel not yet seen. -/
  | hunt
  /-- 4: a sentinel scan collects frame units. -/
  | capture
deriving DecidableEq, Repr

/-- The completion codes (60_exceptions.md R211). Codes 4 to 7 and 15 are "never produced" and have no
constructor. -/
inductive Code where
  | ok
  | found
  | frameReady
  | aborted
  | illop
  | cfg
  | range
  | discTimeout
  | sentTimeout
  | frameTimeout
  | unit
deriving DecidableEq, Repr

/-- STATUS bits 6:1, and the enables of IEN bits 6:1, "one for one" (10_state.md R30 to R35, R40). -/
structure Flags where
  done : Bool
  found : Bool
  frame : Bool
  err : Bool
  bwe : Bool
  short : Bool
deriving DecidableEq, Repr

/-- One event of an interleaving (00_scope.md R6, 20_memory.md R72): who moves next, and what it does. -/
inductive Input where
  /-- The host reads the word at an offset (R62, R64). -/
  | hostRead (off : Offset)
  /-- The host writes a word to an offset (R62, R65). -/
  | hostWrite (off : Offset) (v : Word)
  /-- The transport offers a unit: eight byte lanes and a byte count (R66). -/
  | unitOffer (data : UnitValue) (count : BitVec 4)
  /-- The SFS has its turn: it dispatches a pending command (40_command_control.md R102). -/
  | sfsTurn
  /-- The platform drives the reset input: true asserts, false releases (70_reset_and_hazards.md R241). -/
  | resetLevel (asserted : Bool)
deriving DecidableEq, Repr

/-- Reasons for a fault: none. The SFS "has no trap mechanism" (60_exceptions.md R210); every error is a completion
code, so no step of this model faults. -/
inductive Fault where
deriving DecidableEq, Repr

/-- Reasons for a refusal. -/
inductive Refusal where
  /-- Raised by `exec` for an instruction that has no meaning yet. Safe: the machine stops. Every instruction of this
  model has its meaning, so no arm raises it. -/
  | notModelled (mnemonic : String)
deriving DecidableEq, Repr

/-- The state of the SFS: every register field of 10_state.md under its own name, the two buffers, the hidden XCMD, the
level of the reset input; then the model's own two fields. BUSY, REQ and the outputs are functions of these
(R29, R56). -/
structure State where
  /-- CTRL.BORD, bit 0 (R24). -/
  bord : BitVec 1
  /-- CTRL.REND, bits 2:1 (R25). -/
  rend : BitVec 2
  /-- CTRL.UW, bits 7:4 (R26). -/
  uw : BitVec 4
  /-- STATUS bits 6:1: DONE, FOUND, FRAME, ERR, BWE, SHORT (R30 to R35). -/
  flags : Flags
  /-- STATUS.CODE, bits 11:8 (R36). -/
  code : Code
  /-- STATUS.LASTOP, bits 15:12 (R37). -/
  lastop : BitVec 4
  /-- STATUS.PHASE, bits 18:16 (R38). -/
  phase : Phase
  /-- IEN, bits 6:1 (R40). -/
  ien : Flags
  /-- NMATCH.N (R42). -/
  nmatch : BitVec 4
  /-- MAXATT.MAX (R43). -/
  maxatt : BitVec 16
  /-- PLEN.LEN (R44). -/
  plen : BitVec 5
  /-- PAT0: pattern digits 0 to 7 (R45). -/
  pat0 : Word
  /-- PAT1: pattern digits 8 to 15 (R45). -/
  pat1 : Word
  /-- SENT_LO (R46). -/
  sentLo : Word
  /-- SENT_HI (R46). -/
  sentHi : Word
  /-- FRMK.K (R47). -/
  frmk : BitVec 4
  /-- MCNT.CNT (R48). -/
  mcnt : BitVec 4
  /-- ACNT.CNT (R49). -/
  acnt : BitVec 16
  /-- MPOS.POS (R50). -/
  mpos : BitVec 4
  /-- LAST_LO (R51). -/
  lastLo : Word
  /-- LAST_HI (R51). -/
  lastHi : Word
  /-- LASTCNT (R51). -/
  lastcnt : BitVec 4
  /-- RES (R52). -/
  res : Word
  /-- CCNT.CNT (R53). -/
  ccnt : BitVec 4
  /-- Buffer A (R54). -/
  bufA : Buffer
  /-- Buffer B (R54). -/
  bufB : Buffer
  /-- XCMD, hidden: the command word accepted and not yet dispatched (R56). -/
  xcmd : Word
  /-- The level of the reset input (70_reset_and_hazards.md R241). -/
  resetPin : Bool
  /-- The model's own: the events still to come, the next one first (log entry 1). -/
  inputs : List Input
  /-- The model's own: what the host's latest read returned (log entry 4). -/
  readData : Option Word
deriving DecidableEq, Repr

/-- Every flag 0. -/
def Flags.none : Flags := ⟨false, false, false, false, false, false⟩

/-- The SFS right after reset: the table of 70_reset_and_hazards.md R240, with the reset input released and no event
to come. -/
def State.reset : State where
  bord := 0
  rend := 0
  uw := 8
  flags := Flags.none
  code := .ok
  lastop := 0
  phase := .idle
  ien := Flags.none
  nmatch := 0
  maxatt := 0
  plen := 0
  pat0 := 0
  pat1 := 0
  sentLo := 0
  sentHi := 0
  frmk := 0
  mcnt := 0
  acnt := 0
  mpos := 0
  lastLo := 0
  lastHi := 0
  lastcnt := 0
  res := 0
  ccnt := 0
  bufA := Vector.replicate Config.bufDigits 0
  bufB := Vector.replicate Config.bufDigits 0
  xcmd := 0
  resetPin := false
  inputs := []
  readData := none

end Sys2Proof.Machine
end

