-- ==== Sys2Proof/Machine/Flags.lean ====
section
/-! DEFINITION. STATUS, IEN and CTRL as words, and every rule that sets or clears a flag. -/

namespace Sys2Proof.Machine

/-- The 3-bit value of STATUS.PHASE (10_state.md R38). -/
def Phase.bits : Phase → BitVec 3
  | .idle => 0
  | .pending => 1
  | .scana => 2
  | .hunt => 3
  | .capture => 4

/-- The 4-bit value of STATUS.CODE (60_exceptions.md R211). -/
def Code.bits : Code → BitVec 4
  | .ok => 0
  | .found => 1
  | .frameReady => 2
  | .aborted => 3
  | .illop => 8
  | .cfg => 9
  | .range => 10
  | .discTimeout => 11
  | .sentTimeout => 12
  | .frameTimeout => 13
  | .unit => 14

/-- "An error is a completion whose code is 8 or more" (R210, R211). -/
def Code.isError (c : Code) : Bool := decide (8 ≤ c.bits.toNat)

/-- The flags after `finish(c)`: it sets DONE, and ERR, FOUND or FRAME by the code, and clears none (R212). -/
def Flags.complete (f : Flags) (c : Code) : Flags :=
  { f with
    done := true
    err := f.err || c.isError
    found := f.found || decide (c = .found)
    frame := f.frame || decide (c = .frameReady) }

/-- The flags after a unit of `c` bytes under read width `uw`: SHORT is set when 0 < c < UW
(10_state.md R35, 41_pattern_matcher.md R126). -/
def Flags.noteShort (f : Flags) (c uw : BitVec 4) : Flags :=
  { f with short := f.short || decide (0 < c.toNat ∧ c.toNat < uw.toNat) }

/-- The flags after a host write of `v` to STATUS: each of bits 1 to 6 that is 1 in `v` clears its flag (R39). -/
def Flags.writeOneToClear (f : Flags) (v : Word) : Flags where
  done := f.done && !v.getLsbD 1
  found := f.found && !v.getLsbD 2
  frame := f.frame && !v.getLsbD 3
  err := f.err && !v.getLsbD 4
  bwe := f.bwe && !v.getLsbD 5
  short := f.short && !v.getLsbD 6

/-- Bits 6:1 of a written word as flags (IEN, R40). -/
def Flags.ofWord (v : Word) : Flags where
  done := v.getLsbD 1
  found := v.getLsbD 2
  frame := v.getLsbD 3
  err := v.getLsbD 4
  bwe := v.getLsbD 5
  short := v.getLsbD 6

/-- Flags as bits 6:1 of a word, SHORT first (R30 to R35, R40). -/
def Flags.bits (f : Flags) : BitVec 6 :=
  BitVec.ofBool f.short ++ BitVec.ofBool f.bwe ++ BitVec.ofBool f.err ++ BitVec.ofBool f.frame ++
    BitVec.ofBool f.found ++ BitVec.ofBool f.done

/-- STATUS.BUSY: "1 exactly when STATUS.PHASE ≠ IDLE" (R29). -/
def State.busy (s : State) : Bool := s.phase != .idle

/-- STATUS as the host reads it (R29 to R39); bits 7 and 31:19 read 0. -/
def statusWord (s : State) : Word :=
  0#13 ++ s.phase.bits ++ s.lastop ++ s.code.bits ++ 0#1 ++ s.flags.bits ++ BitVec.ofBool s.busy

/-- IEN as the host reads it (R40). -/
def ienWord (s : State) : Word := 0#25 ++ s.ien.bits ++ 0#1

/-- CTRL as the host reads it: UW, a reserved bit, REND, BORD; SRST reads 0 (R24 to R28). -/
def ctrlWord (s : State) : Word := 0#24 ++ s.uw ++ 0#1 ++ s.rend ++ s.bord

/-- The interrupt output: some flag is set whose enable is set (60_exceptions.md R220). -/
def irq (s : State) : Bool :=
  (s.flags.done && s.ien.done) || (s.flags.found && s.ien.found) || (s.flags.frame && s.ien.frame) ||
    (s.flags.err && s.ien.err) || (s.flags.bwe && s.ien.bwe) || (s.flags.short && s.ien.short)

end Sys2Proof.Machine
end

