-- ==== Sys2Proof/Machine/Operands.lean ====
section
/-! DEFINITION. Digits, bytes and buffers as operands: the digit and byte orders of 20_memory.md R68, reads and writes of
a buffer's digits, and the legal operand ranges of the transforms. -/

namespace Sys2Proof.Machine

/-! ## Digits and bytes of words and values -/

/-- Digit `j` (0 to 7) of a 32-bit digit window: the lowest index sits in bits 31:28 (R45, R55, R68 (4)). -/
def windowDigit (v : Word) (j : Nat) : Digit := v.extractLsb' (28 - 4 * j) 4

/-- The 32-bit window onto eight digits, digit 0 in bits 31:28 (R55, R68 (4)). -/
def windowWord (d : Nat → Digit) : Word := d 0 ++ d 1 ++ d 2 ++ d 3 ++ d 4 ++ d 5 ++ d 6 ++ d 7

/-- `D16(v)[j]`, digit `j` (0 to 15) of the text of a 64-bit value, most significant first
(41_pattern_matcher.md R122). -/
def textDigit (v : UnitValue) (j : Nat) : Digit := v.extractLsb' (60 - 4 * j) 4

/-- `D16(v)`, all 16 digits (R122). -/
def d16 (v : UnitValue) : List Digit := (List.range 16).map (textDigit v)

/-- Byte lane `i` of the unit port, the i-th byte received (20_memory.md R66). -/
def lane (data : UnitValue) (i : Nat) : BitVec 8 := data.extractLsb' (8 * i) 8

/-! ## Buffers -/

/-- A buffer with every digit 0 (R54, R195). -/
def clearedBuffer : Buffer := Vector.replicate Config.bufDigits 0

/-- Digit `i` of a buffer. Every legal operand range keeps `i` below 128; above it this is 0 (log entry 11). -/
def digitAt (b : Buffer) (i : Nat) : Digit := b[i]?.getD 0

/-- The buffer whose digit `k` is `f k` for `lo ≤ k < lo + n`, and `b`'s digit elsewhere. `f` reads a snapshot of the
source, so no digit already written is read again (00_scope.md R12). -/
def writeDigits (b : Buffer) (lo n : Nat) (f : Nat → Digit) : Buffer :=
  Vector.ofFn fun k : Fin Config.bufDigits => if lo ≤ k.val ∧ k.val < lo + n then f k.val else b[k.val]

/-- `buf[S]` (30_encoding.md R87). -/
def State.buf (s : State) : BufSel → Buffer
  | .a => s.bufA
  | .b => s.bufB

/-- `buf[D] <- b` (R87). -/
def State.setBuf (s : State) : BufSel → Buffer → State
  | .a, b => { s with bufA := b }
  | .b, b => { s with bufB := b }

/-- Host window word `w` of a buffer (R55). -/
def bufferWord (b : Buffer) (w : Nat) : Word := windowWord fun j => digitAt b (8 * w + j)

/-- A host write of `v` to window word `w` of a buffer (R55). -/
def writeBufferWord (b : Buffer) (w : Nat) (v : Word) : Buffer :=
  writeDigits b (8 * w) 8 fun k => windowDigit v (k - 8 * w)

/-! ## Legal operands of the transforms -/

/-- `legal_reord(hi, lo)`: whole bytes only (42_endian_reorder.md R161). "Both are 7-bit fields, so hi ≤ 127 always
holds"; the last conjunct says so of an operand that no word encodes (log entry 12). -/
def legalReord (hi lo : Nat) : Bool := decide (lo % 2 = 0 ∧ hi % 2 = 1 ∧ lo < hi ∧ hi ≤ 127)

/-- `legal_remap(base, G)`: at least one group, all of them inside the buffer (43_field_remap.md R176). -/
def legalRemap (base groups : Nat) : Bool := decide (1 ≤ groups ∧ base + 12 * groups ≤ 128)

/-- `legal_cvt(off)`: all four digits inside the buffer (44_convert_clear.md R191). -/
def legalCvt (off : Nat) : Bool := decide (off + 4 ≤ 128)

end Sys2Proof.Machine
end

