-- ==== Sys2Proof/Machine/Ops.lean ====
section
/-! DEFINITION. The shared operations: completion of a command (the SFS's one counterpart of taking an exception),
acceptance, the busy-write error, the reset action and the unit port's outputs. -/

namespace Sys2Proof.Machine

/-- What one step of the SFS answers. -/
abbrev Result := Host.Outcome State Fault Refusal

/-- `finish(code)`: completes the current command (60_exceptions.md R212). It clears no flag and changes nothing but
CODE, the flags and PHASE. -/
def finish (c : Code) (s : State) : State :=
  { s with code := c, flags := s.flags.complete c, phase := .idle }

/-- Acceptance of a command word, whatever it is (40_command_control.md R100). -/
def accept (w : Word) (s : State) : State :=
  { s with xcmd := w, lastop := w.extractLsb' 0 4, phase := .pending }

/-- An ignored write while busy: BWE is set and nothing else changes (10_state.md R34). -/
def busyWriteError (s : State) : State := { s with flags := { s.flags with bwe := true } }

/-- The reset action: every piece of SFS state takes its value of 70_reset_and_hazards.md R240. What is outside the
SFS stays: the reset input's level, the events to come, and what the host has read. -/
def resetAction (s : State) : State :=
  { State.reset with resetPin := s.resetPin, inputs := s.inputs, readData := s.readData }

/-- `u_req`, the hidden REQ: 1 exactly in the scan phases (10_state.md R56, 41_pattern_matcher.md R120). -/
def uReq (s : State) : Bool :=
  match s.phase with
  | .idle => false
  | .pending => false
  | .scana => true
  | .hunt => true
  | .capture => true

/-- `u_max`, equal to CTRL.UW (20_memory.md R66). -/
def uMax (s : State) : BitVec 4 := s.uw

/-- `SENT = SENT_HI ++ SENT_LO` (10_state.md R46). -/
def State.sent (s : State) : UnitValue := s.sentHi ++ s.sentLo

/-- `LAST = LAST_HI ++ LAST_LO` (10_state.md R51). -/
def State.last (s : State) : UnitValue := s.lastHi ++ s.lastLo

/-- `PATD[j]`, pattern digit j (0 to 15): PAT0 holds 0 to 7 and PAT1 holds 8 to 15 (10_state.md R45). -/
def State.patDigit (s : State) (j : Nat) : Digit :=
  if j < 8 then windowDigit s.pat0 j else windowDigit s.pat1 (j - 8)

/-- `PATD[0..LEN-1]`, the digits that take part in matching (R45). -/
def State.pattern (s : State) : List Digit := ((List.range Config.patDigits).map s.patDigit).take s.plen.toNat

end Sys2Proof.Machine
end

