-- ==== Sys2Proof/Machine/Control.lean ====
section
/-! DEFINITION. NOP, ABORT and illegal words (40_command_control.md). -/

namespace Sys2Proof.Machine

/-- NOP at dispatch (R104). -/
def execNop (s : State) : Result := .next (finish .ok s)

/-- ABORT at dispatch, that is, one accepted while idle: "there is nothing to cancel" (R106). -/
def execAbort (s : State) : Result := .next (finish .ok s)

/-- ABORT written while busy: it ends the command in progress inside the write step (R105). -/
def abortInProgress (s : State) : State := finish .aborted s

/-- An illegal word at dispatch (30_encoding.md R93, 40_command_control.md R102). -/
def illegalWord (s : State) : State := finish .illop s

end Sys2Proof.Machine
end

