-- ==== Sys2Proof/Machine/Bus.lean ====
section
/-! DEFINITION. The host register window (10_state.md R22, 20_memory.md R60 to R65): which register an offset names, what
a read returns and what a write does. -/

namespace Sys2Proof.Machine

/-- What stands at a word of the window (20_memory.md R61). -/
inductive Reg where
  | id
  | ctrl
  | status
  | ien
  | cmd
  | nmatch
  | maxatt
  | plen
  | pat0
  | pat1
  | sentLo
  | sentHi
  | frmk
  | mcnt
  | acnt
  | mpos
  | lastLo
  | lastHi
  | lastcnt
  | res
  | ccnt
  /-- BUFA`w` (w is 0 to 15). -/
  | bufA (w : Nat)
  /-- BUFB`w` (w is 0 to 15). -/
  | bufB (w : Nat)
  | reserved
deriving DecidableEq, Repr

/-- The registers at offsets 0x000 to 0x050, in steps of 4 (R61). -/
def namedRegs : List Reg :=
  [.id, .ctrl, .status, .ien, .cmd, .nmatch, .maxatt, .plen, .pat0, .pat1, .sentLo, .sentHi, .frmk, .mcnt, .acnt,
   .mpos, .lastLo, .lastHi, .lastcnt, .res, .ccnt]

/-- The register at word `n` of the window, that is, at offset `4n`; every other word is reserved (R61, R63). -/
def regOfWord (n : Nat) : Reg :=
  if 64 ≤ n ∧ n < 80 then .bufA (n - 64)
  else if 80 ≤ n ∧ n < 96 then .bufB (n - 80)
  else namedRegs.getD n .reserved

/-- The register an offset names; offset bits 1:0 are ignored (R62). -/
def regAt (off : Offset) : Reg := regOfWord (off.toNat / 4)

/-- The word a register reads as; reserved bits, CMD and reserved offsets read 0 (R22, R41, R63). -/
def readReg (s : State) : Reg → Word
  | .id => Config.idValue
  | .ctrl => ctrlWord s
  | .status => statusWord s
  | .ien => ienWord s
  | .cmd => 0
  | .nmatch => s.nmatch.setWidth 32
  | .maxatt => s.maxatt.setWidth 32
  | .plen => s.plen.setWidth 32
  | .pat0 => s.pat0
  | .pat1 => s.pat1
  | .sentLo => s.sentLo
  | .sentHi => s.sentHi
  | .frmk => s.frmk.setWidth 32
  | .mcnt => s.mcnt.setWidth 32
  | .acnt => s.acnt.setWidth 32
  | .mpos => s.mpos.setWidth 32
  | .lastLo => s.lastLo
  | .lastHi => s.lastHi
  | .lastcnt => s.lastcnt.setWidth 32
  | .res => s.res
  | .ccnt => s.ccnt.setWidth 32
  | .bufA w => bufferWord s.bufA w
  | .bufB w => bufferWord s.bufB w
  | .reserved => 0

/-- `BusRead(off)` (R62); it has no side effect (R64). -/
def busRead (off : Offset) (s : State) : Word := readReg s (regAt off)

/-- A guarded register takes the defined fields of the written word, unlegalised (R57, R65); CTRL stores BORD, REND and
UW (R24 to R28). -/
def storeGuarded (r : Reg) (v : Word) (s : State) : State :=
  match r with
  | .ctrl => { s with bord := v.extractLsb' 0 1, rend := v.extractLsb' 1 2, uw := v.extractLsb' 4 4 }
  | .nmatch => { s with nmatch := v.extractLsb' 0 4 }
  | .maxatt => { s with maxatt := v.extractLsb' 0 16 }
  | .plen => { s with plen := v.extractLsb' 0 5 }
  | .pat0 => { s with pat0 := v }
  | .pat1 => { s with pat1 := v }
  | .sentLo => { s with sentLo := v }
  | .sentHi => { s with sentHi := v }
  | .frmk => { s with frmk := v.extractLsb' 0 4 }
  | .bufA w => { s with bufA := writeBufferWord s.bufA w v }
  | .bufB w => { s with bufB := writeBufferWord s.bufB w v }
  | .id | .status | .ien | .cmd | .mcnt | .acnt | .mpos | .lastLo | .lastHi | .lastcnt | .res | .ccnt | .reserved => s

/-- A write to a guarded register: performed while idle, ignored with BWE while busy (R65). -/
def guardedWrite (r : Reg) (v : Word) (s : State) : State :=
  if s.busy then busyWriteError s else storeGuarded r v s

/-- A write to CMD: acceptance while idle; while busy, only the exact ABORT word acts, and any other sets BWE
(40_command_control.md R100, R101, R105). -/
def commandWrite (w : Word) (s : State) : State :=
  if s.busy then if w = 0x00000003#32 then abortInProgress s else busyWriteError s
  else accept w s

/-- A write to CTRL: bit 31 makes it a soft reset, whatever BUSY is (10_state.md R27, 40_command_control.md R107). -/
def controlWrite (v : Word) (s : State) : State :=
  if v.getLsbD 31 then resetAction s else guardedWrite .ctrl v s

/-- What a write of `v` to a register does. STATUS clears flags by ones (R39), IEN is never guarded (R40), and writes to
read-only registers and reserved offsets are ignored without BWE (R63, R65). -/
def writeReg (s : State) (r : Reg) (v : Word) : State :=
  match r with
  | .ctrl => controlWrite v s
  | .status => { s with flags := s.flags.writeOneToClear v }
  | .ien => { s with ien := Flags.ofWord v }
  | .cmd => commandWrite v s
  | .nmatch | .maxatt | .plen | .pat0 | .pat1 | .sentLo | .sentHi | .frmk | .bufA _ | .bufB _ => guardedWrite r v s
  | .id | .mcnt | .acnt | .mpos | .lastLo | .lastHi | .lastcnt | .res | .ccnt | .reserved => s

/-- `BusWrite(off, v)` (R62). -/
def busWrite (off : Offset) (v : Word) (s : State) : State := writeReg s (regAt off) v

end Sys2Proof.Machine
end

