-- ==== Sys2Proof/Machine/Convert.lean ====
section
/-! DEFINITION. CVT, the calibration front end, and CLR, the buffer clear (44_convert_clear.md). -/

namespace Sys2Proof.Machine

/-- `raw16`: four digits of a buffer from index `off`, the first most significant (R190). -/
def rawField (b : Buffer) (off : Nat) : BitVec 16 :=
  digitAt b off ++ digitAt b (off + 1) ++ digitAt b (off + 2) ++ digitAt b (off + 3)

/-- Step (a): swap the high and the low byte (R190). -/
def swapBytes (raw : BitVec 16) : BitVec 16 := raw.extractLsb' 0 8 ++ raw.extractLsb' 8 8

/-- Step (b): `sext_32(sw16) >>a 2` (R190, R192). -/
def calibrationShift (sw : BitVec 16) : Word := (sw.signExtend 32).sshiftRight 2

/-- CVT at dispatch: RES (R190), or RANGE (R191). -/
def execCvt (src : BufSel) (off : Nat) (s : State) : Result :=
  if legalCvt off then
    .next (finish .ok { s with res := calibrationShift (swapBytes (rawField (s.buf src) off)) })
  else .next (finish .range s)

/-- CLR at dispatch (R195). -/
def execClr (src : BufSel) (s : State) : Result := .next (finish .ok (s.setBuf src clearedBuffer))

end Sys2Proof.Machine
end

