-- ==== Sys2Proof/Machine/Remap.lean ====
section
/-! DEFINITION. REMAP, the field remapper (43_field_remap.md). -/

namespace Sys2Proof.Machine

/-- `perm(j) = 4·(j div 4) + ((j mod 4) + 2) mod 4` (R175, R177). -/
def groupPerm (j : Nat) : Nat := 4 * (j / 4) + (j % 4 + 2) % 4

/-- The source index of destination digit `k`: group g, digit j of it, for k = base + 12g + j (R175). -/
def remapIndex (base k : Nat) : Nat :=
  base + Config.groupDigits * ((k - base) / Config.groupDigits) + groupPerm ((k - base) % Config.groupDigits)

/-- REMAP at dispatch: digits base to base + 12G - 1 of buf[D] (R175), or RANGE (R176). -/
def execRemap (src dst : BufSel) (base groups : Nat) (s : State) : Result :=
  if legalRemap base groups then
    .next (finish .ok (s.setBuf dst
      (writeDigits (s.buf dst) base (Config.groupDigits * groups) fun k => digitAt (s.buf src) (remapIndex base k))))
  else .next (finish .range s)

end Sys2Proof.Machine
end

