-- ==== Sys2Proof/Machine/Reorder.lean ====
section
/-! DEFINITION. REORD, the endian reorderer (42_endian_reorder.md). -/

namespace Sys2Proof.Machine

/-- The walk of R160 over the `n` digits of the source from index `lo + n - 1` down to `lo`: an odd-index digit goes to
the next odd ("high") slot of `T`, an even-index digit to the next even ("low") slot. -/
def reordWalk (src : Buffer) (lo : Nat) : Nat → Nat → Nat → Buffer → Buffer
  | 0, _, _, t => t
  | n + 1, loSlot, hiSlot, t =>
    if (lo + n) % 2 = 1 then
      reordWalk src lo n loSlot (hiSlot + 2) (t.setIfInBounds hiSlot (digitAt src (lo + n)))
    else
      reordWalk src lo n (loSlot + 2) hiSlot (t.setIfInBounds loSlot (digitAt src (lo + n)))

/-- The output slots `T` of R160 for the range `lo..hi`, once the walk is over. -/
def reordSlots (src : Buffer) (hi lo : Nat) : Buffer := reordWalk src lo (hi - lo + 1) 0 1 clearedBuffer

/-- REORD at dispatch: the walk's output goes to digits 0 to L-1 of buf[D] (R160), or RANGE (R161). -/
def execReord (src dst : BufSel) (hi lo : Nat) (s : State) : Result :=
  if legalReord hi lo then
    let t := reordSlots (s.buf src) hi lo
    .next (finish .ok (s.setBuf dst (writeDigits (s.buf dst) 0 (hi - lo + 1) (digitAt t))))
  else .next (finish .range s)

end Sys2Proof.Machine
end

