-- ==== Sys2Proof/Machine/Scan.lean ====
section
/-! DEFINITION. The dispatch of the two scans (41_pattern_matcher.md R127, R131). Their unit steps are in Intake.lean. -/

namespace Sys2Proof.Machine

/-- UW is a legal read width, 1 to 8 (10_state.md R26). -/
def legalReadWidth (s : State) : Bool := decide (1 ≤ s.uw.toNat ∧ s.uw.toNat ≤ Config.unitBytes)

/-- SCANA's configuration check (R127). -/
def legalScana (s : State) : Bool :=
  decide (s.nmatch ≠ 0 ∧ s.maxatt ≠ 0 ∧ 1 ≤ s.plen.toNat ∧ s.plen.toNat ≤ Config.patDigits ∧ s.rend ≠ 3) &&
    legalReadWidth s

/-- SCANS's configuration check; it reads neither REND nor the pattern nor NMATCH (R131). -/
def legalScans (s : State) : Bool :=
  decide (s.maxatt ≠ 0 ∧ 1 ≤ s.frmk.toNat ∧ s.frmk.toNat ≤ Config.maxFrameUnits) && legalReadWidth s

/-- SCANA at dispatch (R127). -/
def execScana (s : State) : Result :=
  if legalScana s then .next { s with mcnt := 0, acnt := 0, mpos := 0, phase := .scana } else .next (finish .cfg s)

/-- SCANS at dispatch (R131). Buffer A is left for the sentinel step to clear. -/
def execScans (s : State) : Result :=
  if legalScans s then .next { s with acnt := 0, ccnt := 0, phase := .hunt } else .next (finish .cfg s)

end Sys2Proof.Machine
end

