-- ==== Sys2Proof/Machine/Dispatch.lean ====
section
/-! DEFINITION. What each command does at its dispatch step (40_command_control.md R102), one arm per command. -/

namespace Sys2Proof.Machine

def exec (i : Instr) (s : State) : Host.Outcome State Fault Refusal :=
  match i with
  | .nop => Sys2Proof.Machine.execNop s
  | .scana => Sys2Proof.Machine.execScana s
  | .scans => Sys2Proof.Machine.execScans s
  | .abort => Sys2Proof.Machine.execAbort s
  | .reord src dst hi lo => Sys2Proof.Machine.execReord src dst hi lo s
  | .remap src dst base groups => Sys2Proof.Machine.execRemap src dst base groups s
  | .cvt src off => Sys2Proof.Machine.execCvt src off s
  | .clr src => Sys2Proof.Machine.execClr src s

end Sys2Proof.Machine
end

