-- ==== Sys2Proof/Machine/Intake.lean ====
section
/-! DEFINITION. Unit intake: the unit functions and the unit steps of the two scans (41_pattern_matcher.md R120 to
R136). -/

namespace Sys2Proof.Machine

/-! ## Unit functions -/

/-- The sum of `f i` for `i < n`, at 64 bits. -/
def sumBelow (f : Nat → UnitValue) : Nat → UnitValue
  | 0 => 0
  | n + 1 => sumBelow f n + f n

/-- `assemble(data, c, bord)`: the 64-bit value of a unit's `c` bytes. BORD = 0: first byte least significant; 1: first
byte most significant of the `c` received (R121). -/
def assemble (data : UnitValue) (c : Nat) (bord : BitVec 1) : UnitValue :=
  if bord = 0 then sumBelow (fun i => (lane data i).setWidth 64 <<< (8 * i)) c
  else sumBelow (fun i => (lane data i).setWidth 64 <<< (8 * (c - 1 - i))) c

/-- The number of leading 0 digits of a text. -/
def leadingZeros (t : List Digit) : Nat := (t.takeWhile fun d => d == 0).length

/-- `text(v, c, rend)`, the hex rendering that SCANA matches against (R123). REND = 0b11 "never reaches this
function": its text is a free value (log entry 6). -/
def hexText (v : UnitValue) (c : Nat) (rend : BitVec 2) : List Digit :=
  match rend.toNat with
  | 0 => d16 v
  | 1 => (d16 v).drop (16 - 2 * c)
  | 2 => (d16 v).drop (min 15 (leadingZeros (d16 v)))
  | _ => Config.reservedModeText v c

/-- `match(t, len)` for the pattern `pat` of length len: the smallest position at which `pat` stands in the text, whole
and in order (R124). -/
def firstMatch (pat : List Digit) : List Digit → Option Nat
  | [] => if pat.isEmpty then some 0 else none
  | d :: t => if pat.isPrefixOf (d :: t) then some 0 else (firstMatch pat t).map (· + 1)

/-! ## Unit steps -/

/-- The prologue of a unit step for a unit of `c` bytes within the read width (R126): the attempt is counted, LAST and
LASTCNT record the unit, and a short unit sets SHORT. -/
def recordUnit (data : UnitValue) (c : BitVec 4) (s : State) : State :=
  let v := assemble data c.toNat s.bord
  { s with
    acnt := s.acnt + 1
    lastLo := v.extractLsb' 0 32
    lastHi := v.extractLsb' 32 32
    lastcnt := c
    flags := s.flags.noteShort c s.uw }

/-- SCANA's attempt cap, tested after the match (R128, R129). -/
def scanaCap (s : State) : State := if s.acnt = s.maxatt then finish .discTimeout s else s

/-- Where the unit just recorded matches the address, if it does. An empty unit never matches (R128, R135). -/
def addressMatch (s : State) : Option Nat :=
  if s.lastcnt = 0 then none else firstMatch s.pattern (hexText s.last s.lastcnt.toNat s.rend)

/-- SCANA's unit step, after the prologue (R128). -/
def scanaUnit (s : State) : State :=
  match addressMatch s with
  | none => scanaCap s
  | some p =>
    let s' := { s with mcnt := s.mcnt + 1, mpos := BitVec.ofNat 4 p }
    if s'.mcnt = s'.nmatch then finish .found s' else scanaCap s'

/-- SCANS's attempt cap, by the phase the step leaves (R134). -/
def scansCap (s : State) : State :=
  if s.acnt = s.maxatt then
    if s.phase = .hunt then finish .sentTimeout s else finish .frameTimeout s
  else s

/-- SCANS's unit step in HUNT, after the prologue: the sentinel clears buffer A and starts the capture (R132). -/
def huntUnit (s : State) : State :=
  if s.lastcnt ≠ 0 ∧ s.last = s.sent then
    scansCap { s with bufA := clearedBuffer, ccnt := 0, phase := .capture }
  else scansCap s

/-- SCANS's unit step in CAPTURE, after the prologue: a non-empty unit fills the next 16 digits of buffer A (R133). -/
def captureUnit (s : State) : State :=
  if s.lastcnt = 0 then scansCap s
  else
    let start := 16 * s.ccnt.toNat
    let s' := { s with
      bufA := writeDigits s.bufA start 16 fun k => textDigit s.last (k - start)
      ccnt := s.ccnt + 1 }
    if s'.ccnt = s'.frmk then finish .frameReady s' else scansCap s'

/-- The unit step: a unit of more bytes than UW ends the scan with UNIT and records only the attempt; any other runs
the prologue and then its phase's part (R126, R215). No unit is consumed outside the scan phases (R120). -/
def unitStep (data : UnitValue) (c : BitVec 4) (s : State) : State :=
  if uReq s then
    if s.uw.toNat < c.toNat then finish .unit { s with acnt := s.acnt + 1 }
    else
      let r := recordUnit data c s
      match s.phase with
      | .scana => scanaUnit r
      | .hunt => huntUnit r
      | .capture => captureUnit r
      | .idle => s
      | .pending => s
  else s

end Sys2Proof.Machine
end

