-- ==== Sys2Proof/Machine/Turn.lean ====
section
/-! DEFINITION. The turns of the three agents and of the reset input (00_scope.md R6, 20_memory.md R72). -/

namespace Sys2Proof.Machine

/-- The dispatch step: the pending word's command is run, or the word is illegal (40_command_control.md R102). -/
def dispatchStep (s : State) : Result :=
  match decode s.xcmd with
  | .ok i => exec i s
  | .error _ => .next (illegalWord s)

/-- The SFS's turn: the dispatch step, "enabled exactly when STATUS.PHASE = PENDING" (R102), else nothing. While the
reset input is asserted the SFS takes no step (70_reset_and_hazards.md R241). -/
def sfsTurn (s : State) : Result :=
  if s.phase = .pending ∧ s.resetPin = false then dispatchStep s else .next s

/-- The reset input changes level; asserting it performs the reset action (R240, R241). -/
def driveReset (asserted : Bool) (s : State) : State :=
  if asserted then { resetAction s with resetPin := true } else { s with resetPin := false }

/-- A host access, a unit offer or the SFS's turn, with the reset input released. -/
def agentTurn (e : Input) (s : State) : Result :=
  match e with
  | .hostRead off => .next { s with readData := some (busRead off s) }
  | .hostWrite off v => .next (busWrite off v s)
  | .unitOffer data count => .next (unitStep data count s)
  | .sfsTurn => sfsTurn s
  | .resetLevel asserted => .next (driveReset asserted s)

/-- One event. While the reset input is asserted, "no host access and no unit transfer takes effect" (R241). -/
def takeInput (e : Input) (s : State) : Result :=
  match e with
  | .resetLevel asserted => .next (driveReset asserted s)
  | _ => if s.resetPin then .next s else agentTurn e s

/-- One atomic step: the next event of the interleaving; with none to come, the SFS's own turn, so that a pending
command is dispatched at last (40_command_control.md R103; log entry 2). -/
def takeTurn (s : State) : Result :=
  match s.inputs with
  | [] => sfsTurn s
  | e :: rest => takeInput e { s with inputs := rest }

/-- The command word `w` is accepted (R100), with the reset input released, and the SFS has the next turn (log
entry 8). -/
def placeCommand (w : Word) (s : State) : State :=
  { accept w s with resetPin := false, inputs := .sfsTurn :: s.inputs }

end Sys2Proof.Machine
end

