-- ==== Sys2Proof/Machine/Step.lean ====
section
/-! DEFINITION. The machine's step, and the placing of a command where the next step fetches it. -/

namespace Sys2Proof.Machine

/-- One atomic step of the interleaving (00_scope.md R6). -/
def step (s : State) : Host.Outcome State Fault Refusal := takeTurn s

/-- `s` with the command word `w` (its low `nbits` bits) accepted into XCMD and the SFS's turn next (log entry 8). -/
def State.withFetchWord (s : State) (nbits w : Nat) : State := placeCommand (BitVec.ofNat 32 (w % 2 ^ nbits)) s

end Sys2Proof.Machine
end

