-- ==== Sys2Proof/Safety.lean ====
section
/-! DEFINITION. What a good state and a safe step are, in the terms the statements use. -/

namespace Sys2Proof.Machine

/-- A step that neither faults nor is refused: "the SFS has no trap mechanism" (60_exceptions.md R210). -/
def State.stepsOn (s : State) : Prop := ∃ t, step s = .next t

/-- SCANA's configuration is legal, in the spec's terms (41_pattern_matcher.md R127). -/
def ScanaConfigured (s : State) : Prop :=
  s.nmatch ≠ 0 ∧ s.maxatt ≠ 0 ∧ 1 ≤ s.plen.toNat ∧ s.plen.toNat ≤ 16 ∧ s.rend ≠ 3 ∧
    1 ≤ s.uw.toNat ∧ s.uw.toNat ≤ 8

/-- SCANS's configuration is legal, in the spec's terms (41_pattern_matcher.md R131). -/
def ScansConfigured (s : State) : Prop :=
  s.maxatt ≠ 0 ∧ 1 ≤ s.frmk.toNat ∧ s.frmk.toNat ≤ 8 ∧ 1 ≤ s.uw.toNat ∧ s.uw.toNat ≤ 8

/-- The invariant of every run from reset. -/
structure State.Inv (s : State) : Prop where
  /-- The pending word's OP is the accepted command's (10_state.md R37, 40_command_control.md R100). -/
  pending_lastop : s.phase = .pending → s.lastop = s.xcmd.extractLsb' 0 4
  /-- An address scan runs only with a legal configuration, below its attempt cap and its match count
  (41_pattern_matcher.md R127, R130). -/
  scana_bounds : s.phase = .scana →
    ScanaConfigured s ∧ s.acnt.toNat < s.maxatt.toNat ∧ s.mcnt.toNat < s.nmatch.toNat
  /-- The hunt for the sentinel likewise, with no unit captured (R131, R130). -/
  hunt_bounds : s.phase = .hunt → ScansConfigured s ∧ s.acnt.toNat < s.maxatt.toNat ∧ s.ccnt = 0
  /-- The capture likewise, with fewer than K units captured (R130, R133). -/
  capture_bounds : s.phase = .capture →
    ScansConfigured s ∧ s.acnt.toNat < s.maxatt.toNat ∧ s.ccnt.toNat < s.frmk.toNat
  /-- During the capture buffer A is 0 beyond the units captured (R132 to R134). -/
  capture_rest_zero : s.phase = .capture → ∀ i, 16 * s.ccnt.toNat ≤ i → i < 128 → digitAt s.bufA i = 0
  /-- While the reset input is asserted the SFS holds its reset state. DESIGN CHOICE (log entry 5): the spec gives that
  state for the time after the release, and says only that nothing takes effect before it
  (70_reset_and_hazards.md R241). -/
  held_in_reset : s.resetPin = true → s = resetAction s

/-- The event about to happen (none: the SFS's own turn). -/
def State.event (s : State) : Option Input := s.inputs.head?

/-- The state once the event about to happen is taken off the list. -/
def State.rest (s : State) : State := { s with inputs := s.inputs.tail }

/-- The SFS itself moves next, with the reset input released. -/
def State.sfsMoves (s : State) : Prop := s.resetPin = false ∧ (s.event = none ∨ s.event = some .sfsTurn)

/-- Another agent's event `e` happens next, with the reset input released. -/
def State.meets (s : State) (e : Input) : Prop := s.resetPin = false ∧ s.event = some e

/-- The event about to happen resets the SFS: the reset input is asserted, or a soft reset is written
(70_reset_and_hazards.md R241). -/
def State.resetting (s : State) : Prop :=
  s.event = some (.resetLevel true) ∨
    ∃ off v, s.event = some (.hostWrite off v) ∧ off.toNat / 4 = 1 ∧ v.getLsbD 31 = true

/-- A unit contains the device address: it is not empty, and the pattern stands in its text
(41_pattern_matcher.md R124, R128, R135). -/
def unitMatches (s : State) (u : UnitValue × BitVec 4) : Bool :=
  decide (u.2 ≠ 0) &&
    (firstMatch s.pattern (hexText (assemble u.1 u.2.toNat s.bord) u.2.toNat s.rend)).isSome

/-- A feed of units as events of an interleaving. -/
def offers (us : List (UnitValue × BitVec 4)) : List Input := us.map fun u => .unitOffer u.1 u.2

end Sys2Proof.Machine
end

