-- ==== Sys2Proof/Certificates/Slice0/Obligations.lean ====
section
/-! DEFINITION. The statements for the provers, in the order of spec/'s files. `s.meets e` says that the event e of
another agent comes next with the reset input released, `s.sfsMoves` that the SFS itself moves next, and `s.rest` is s
with the event about to happen taken off the list of events. -/

open Sys2Proof Sys2Proof.Machine

/-! ## The register window and the host's accesses (10_state.md, 20_memory.md) -/

/-- R64: a read changes nothing of the SFS, and answers the register's value. -/
def Obligations.HostReadHasNoSideEffect : Prop :=
  ∀ (s : State) (off : Offset), s.meets (.hostRead off) →
    step s = .next { s with inputs := s.inputs.tail, readData := some (busRead off s) } ∧
    ∀ off', busRead off' { s with inputs := s.inputs.tail, readData := some (busRead off s) } = busRead off' s

/-- R62: offset bits 1:0 are ignored by reads and by writes. -/
def Obligations.OffsetLowBitsAreIgnored : Prop :=
  ∀ (s : State) (off : Offset) (v : Word),
    busRead off s = busRead (off &&& 0xFFC#12) s ∧ busWrite off v s = busWrite (off &&& 0xFFC#12) v s

/-- R63: reserved offsets read 0 and ignore writes. -/
def Obligations.ReservedOffsetsAreInert : Prop :=
  ∀ (s : State) (off : Offset) (v : Word),
    (0x054 ≤ off.toNat ∧ off.toNat ≤ 0x0FF) ∨ (0x180 ≤ off.toNat ∧ off.toNat ≤ 0xFFF) →
    busRead off s = 0 ∧ busWrite off v s = s

/-- Writes to ID and to MCNT to CCNT are ignored, without BWE (10_state.md section 2, 20_memory.md section 2). -/
def Obligations.ReadOnlyRegistersIgnoreWrites : Prop :=
  ∀ (s : State) (off : Offset) (v : Word),
    off.toNat ≤ 0x003 ∨ (0x034 ≤ off.toNat ∧ off.toNat ≤ 0x053) → busWrite off v s = s

/-- A write to a guarded register while busy sets BWE and changes nothing else (20_memory.md section 2). -/
def Obligations.GuardedWriteWhileBusyOnlySetsBwe : Prop :=
  ∀ (s : State) (off : Offset) (v : Word), s.phase ≠ .idle →
    (off.toNat / 4 = 0x001 ∧ v.getLsbD 31 = false) ∨ (0x014 ≤ off.toNat ∧ off.toNat ≤ 0x033) ∨
      (0x100 ≤ off.toNat ∧ off.toNat ≤ 0x17F) →
    busWrite off v s = { s with flags := { s.flags with bwe := true } }

/-- A write to a guarded register while idle stores exactly the bits written within the register's fields, unlegalised:
it reads back so, every other word of the window reads as before, and the hidden XCMD and the flags, code and phase are
unchanged (10_state.md sections 4 to 11). -/
def Obligations.GuardedWriteWhileIdleReadsBack : Prop :=
  ∀ (s : State) (off : Offset) (v mask : Word), s.phase = .idle →
    (off.toNat / 4 = 0x001 ∧ v.getLsbD 31 = false ∧ mask = 0x000000F7#32) ∨
      (off.toNat / 4 = 0x014 / 4 ∧ mask = 0x0000000F#32) ∨ (off.toNat / 4 = 0x018 / 4 ∧ mask = 0x0000FFFF#32) ∨
      (off.toNat / 4 = 0x01C / 4 ∧ mask = 0x0000001F#32) ∨ (off.toNat / 4 = 0x030 / 4 ∧ mask = 0x0000000F#32) ∨
      (0x020 ≤ off.toNat ∧ off.toNat ≤ 0x02F ∧ mask = 0xFFFFFFFF#32) ∨
      (0x100 ≤ off.toNat ∧ off.toNat ≤ 0x17F ∧ mask = 0xFFFFFFFF#32) →
    busRead off (busWrite off v s) = v &&& mask ∧
    (∀ off' : Offset, off'.toNat / 4 ≠ off.toNat / 4 → busRead off' (busWrite off v s) = busRead off' s) ∧
    (busWrite off v s).xcmd = s.xcmd ∧ (busWrite off v s).flags = s.flags ∧ (busWrite off v s).code = s.code ∧
    (busWrite off v s).phase = s.phase

/-- R39: a write to STATUS clears those of bits 1 to 6 that are 1 in the word written, and nothing else, busy or not;
bits 7 and 31:19 read 0. -/
def Obligations.StatusWriteClearsByOnes : Prop :=
  ∀ (s : State) (off : Offset) (v : Word), off.toNat / 4 = 0x008 / 4 →
    (∀ i, (busRead 0x008#12 (busWrite off v s)).getLsbD i =
      ((busRead 0x008#12 s).getLsbD i && !(decide (1 ≤ i ∧ i ≤ 6) && v.getLsbD i))) ∧
    (∀ i, i = 7 ∨ 19 ≤ i → (busRead 0x008#12 s).getLsbD i = false) ∧
    { busWrite off v s with flags := s.flags } = s

/-- IEN stores bits 6:1 of the word written, busy or not, and nothing else changes (10_state.md section 6). -/
def Obligations.IenWriteStoresItsSixBits : Prop :=
  ∀ (s : State) (off : Offset) (v : Word), off.toNat / 4 = 0x00C / 4 →
    busRead off (busWrite off v s) = v &&& 0x0000007E#32 ∧ { busWrite off v s with ien := s.ien } = s

/-- R55: word w of a buffer's window shows digits 8w to 8w + 7, the first in bits 31:28, and a write to it while idle
stores them; while busy the write is ignored and sets BWE. -/
def Obligations.BufferWindowHoldsDigitsInTextOrder : Prop :=
  ∀ (s : State) (offA offB : Offset) (v : Word) (w : Nat), w < 16 → offA.toNat = 0x100 + 4 * w →
    offB.toNat = 0x140 + 4 * w →
    (∀ j < 8, (busRead offA s).extractLsb' (28 - 4 * j) 4 = digitAt s.bufA (8 * w + j) ∧
      (busRead offB s).extractLsb' (28 - 4 * j) 4 = digitAt s.bufB (8 * w + j)) ∧
    (s.phase = .idle → ∀ j < 8,
      digitAt (busWrite offA v s).bufA (8 * w + j) = v.extractLsb' (28 - 4 * j) 4 ∧
      digitAt (busWrite offB v s).bufB (8 * w + j) = v.extractLsb' (28 - 4 * j) 4) ∧
    (s.phase ≠ .idle → busWrite offA v s = { s with flags := { s.flags with bwe := true } } ∧
      busWrite offB v s = { s with flags := { s.flags with bwe := true } })

/-- R45: the pattern text is the first LEN digits of PAT0 then PAT1, most significant nibble first. -/
def Obligations.PatternIsTheDigitsOfPat0AndPat1 : Prop :=
  ∀ s : State, s.plen.toNat ≤ 16 → s.pattern.length = s.plen.toNat ∧
    ∀ j < s.plen.toNat, s.pattern[j]? =
      some (if j < 8 then s.pat0.extractLsb' (31 - 4 * j - 3) 4 else s.pat1.extractLsb' (31 - 4 * (j - 8) - 3) 4)

/-! ## Encoding (30_encoding.md) -/

/-- Decoding an encoded command gives it back, for every command and every operand that fits its field. -/
def Obligations.EncodedCommandDecodesToItself : Prop :=
  ∀ i : Instr, i.wellFormed = true → decode (encode i) = .ok i

/-- A word that decodes is the one encoding of its command, and its operands fit their fields: no bit is dropped. -/
def Obligations.DecodedCommandEncodesToItsWord : Prop :=
  ∀ (w : Word) (i : Instr), decode w = .ok i → i.wellFormed = true ∧ encode i = w

/-- R92: the word of a row of the opcode map is that row's command with the operands of its fields; a word with OP of 8
or more, or that differs from its row's match under its mask, is illegal. -/
def Obligations.DecodeFollowsTheOpcodeMap : Prop :=
  ∀ w : Word,
    let s := if w.getLsbD 4 then BufSel.b else BufSel.a
    let d := if w.getLsbD 5 then BufSel.b else BufSel.a
    let fa := (w.extractLsb' 8 7).toNat
    let fb := (w.extractLsb' 16 7).toNat
    let rows : List (Word × Word × Instr) :=
      [(0x00000000#32, 0xFFFFFFFF#32, .nop), (0x00000001#32, 0xFFFFFFFF#32, .scana),
       (0x00000002#32, 0xFFFFFFFF#32, .scans), (0x00000003#32, 0xFFFFFFFF#32, .abort),
       (0x00000004#32, 0xFF8080CF#32, .reord s d fb fa), (0x00000005#32, 0xFF8080CF#32, .remap s d fa fb),
       (0x00000006#32, 0xFFFF80EF#32, .cvt s fa), (0x00000007#32, 0xFFFFFFEF#32, .clr s)]
    (∀ k, ∀ row ∈ rows[k]?, (w.extractLsb' 0 4).toNat = k →
      (w &&& row.2.1 = row.1 → decode w = .ok row.2.2) ∧ (w &&& row.2.1 ≠ row.1 → ∃ e, decode w = .error e)) ∧
    (8 ≤ (w.extractLsb' 0 4).toNat → ∃ e, decode w = .error e)

/-- The examples of the assembler's syntax decode to the commands they stand for (30_encoding.md section 5). -/
def Obligations.WrittenWordsDecode : Prop :=
  decode 0x00000000#32 = .ok .nop ∧ decode 0x00000001#32 = .ok .scana ∧ decode 0x00000002#32 = .ok .scans ∧
  decode 0x00000003#32 = .ok .abort ∧ decode 0x00090024#32 = .ok (.reord .a .b 9 0) ∧
  decode 0x00030035#32 = .ok (.remap .b .b 0 3) ∧ decode 0x00000016#32 = .ok (.cvt .b 0) ∧
  decode 0x00000017#32 = .ok (.clr .b)

/-- R93: an illegal word is accepted like any command and completes at dispatch with ILLOP, with no other effect. -/
def Obligations.IllegalWordCompletesWithIllop : Prop :=
  ∀ (s : State) (w : Word) (e : DecodeError) (rest : List Input), s.phase = .idle → s.resetPin = false →
    decode w = .error e → s.inputs = .hostWrite 0x010#12 w :: .sfsTurn :: rest →
    Sys2Proof.core.run 2 s = .next { s with
      inputs := rest, xcmd := w, lastop := w.extractLsb' 0 4, code := .illop, phase := .idle,
      flags := { s.flags with done := true, err := true } }

/-! ## Acceptance, dispatch, NOP, ABORT, soft reset (40_command_control.md) -/

/-- The dispatch step of a pending legal word is the meaning of the command it decodes to; the step only takes the SFS's
turn off the list of events. -/
def Obligations.StepRunsTheDecodedCommand : Prop :=
  ∀ (s : State) (i : Instr), s.sfsMoves → s.phase = .pending → decode s.xcmd = .ok i → step s = exec i s.rest

/-- With no command pending, the SFS's own turn changes nothing: dispatch is enabled only in PENDING. -/
def Obligations.SfsRestsUnlessPending : Prop :=
  ∀ s : State, s.sfsMoves → s.phase ≠ .pending → step s = .next s.rest

/-- R100: a CMD write while idle latches the word, whatever it is, and nothing else changes. -/
def Obligations.CommandWriteWhileIdleIsAccepted : Prop :=
  ∀ (s : State) (off : Offset) (w : Word), s.meets (.hostWrite off w) → off.toNat / 4 = 0x010 / 4 → s.phase = .idle →
    step s = .next { s with inputs := s.inputs.tail, xcmd := w, lastop := w.extractLsb' 0 4, phase := .pending }

/-- R101: a CMD write while busy, other than of the exact ABORT word, sets BWE and changes nothing else. -/
def Obligations.CommandWriteWhileBusyIsLost : Prop :=
  ∀ (s : State) (off : Offset) (w : Word), s.meets (.hostWrite off w) → off.toNat / 4 = 0x010 / 4 → s.phase ≠ .idle →
    w ≠ 0x00000003#32 → step s = .next { s with inputs := s.inputs.tail, flags := { s.flags with bwe := true } }

/-- R105: the ABORT word written while busy ends the command inside the write step: ABORTED, DONE, IDLE, and nothing
else changes; no further unit is requested. -/
def Obligations.AbortWhileBusyEndsTheCommand : Prop :=
  ∀ (s : State) (off : Offset), s.meets (.hostWrite off 0x00000003#32) → off.toNat / 4 = 0x010 / 4 → s.phase ≠ .idle →
    ∃ t, step s = .next t ∧ uReq t = false ∧
      t = { s with inputs := s.inputs.tail, code := .aborted, phase := .idle, flags := { s.flags with done := true } }

/-- An ABORT accepted while idle completes with OK at its dispatch, and nothing else changes. -/
def Obligations.AbortWhileIdleCompletesOk : Prop :=
  ∀ s : State, exec .abort s = .next { s with code := .ok, phase := .idle, flags := { s.flags with done := true } }

/-- NOP completes with OK at its dispatch, and nothing else changes. -/
def Obligations.NopCompletesOk : Prop :=
  ∀ s : State, exec .nop s = .next { s with code := .ok, phase := .idle, flags := { s.flags with done := true } }

/-- R107: a CTRL write with bit 31 set, busy or not, leaves every piece of SFS state at its reset value, whatever the
other bits are; no completion is recorded. -/
def Obligations.SoftResetDiscardsEverything : Prop :=
  ∀ (s : State) (off : Offset) (v : Word), s.meets (.hostWrite off v) → off.toNat / 4 = 0x004 / 4 →
    v.getLsbD 31 = true →
    step s = .next { State.reset with inputs := s.inputs.tail, readData := s.readData }

/-! ## The pattern matcher (41_pattern_matcher.md) -/

/-- R121: byte i of a unit of c bytes is byte i of its value when BORD = 0 and byte c-1-i when BORD = 1, and the value's
bits from 8c up are 0. -/
def Obligations.AssemblePlacesEachByte : Prop :=
  ∀ (data : UnitValue) (c : Nat), c ≤ 8 →
    (∀ i < c, (assemble data c 0).extractLsb' (8 * i) 8 = data.extractLsb' (8 * i) 8) ∧
    (∀ i < c, (assemble data c 1).extractLsb' (8 * (c - 1 - i)) 8 = data.extractLsb' (8 * i) 8) ∧
    ∀ bord k, 8 * c ≤ k → (assemble data c bord).getLsbD k = false

/-- R123: the three rendering modes: all 16 digits, the digits of the bytes received, and the digits from the first
nonzero one (the last digit at the latest). -/
def Obligations.TextRendersByMode : Prop :=
  ∀ (v : UnitValue) (c : Nat), c ≤ 8 →
    (hexText v c 0 = d16 v ∧ (d16 v).length = 16 ∧ ∀ j < 16, (d16 v)[j]? = some (v.extractLsb' (63 - 4 * j - 3) 4)) ∧
    ((hexText v c 1).length = 2 * c ∧ ∀ j < 2 * c, (hexText v c 1)[j]? = (d16 v)[16 - 2 * c + j]?) ∧
    ∃ z ≤ 15, (∀ j < z, (d16 v)[j]? = some 0) ∧ (z = 15 ∨ (d16 v)[z]? ≠ some 0) ∧
      (hexText v c 2).length = 16 - z ∧ ∀ j < 16 - z, (hexText v c 2)[j]? = (d16 v)[z + j]?

/-- R124: the match position is the smallest one at which the whole pattern stands in the text, and there is none
exactly when the pattern stands nowhere in it. -/
def Obligations.MatchIsTheFirstWholeOccurrence : Prop :=
  ∀ pat t : List Digit,
    (∀ p, firstMatch pat t = some p ↔
      (p + pat.length ≤ t.length ∧ ∀ j < pat.length, t[p + j]? = pat[j]?) ∧
      ∀ q < p, ¬ ∀ j < pat.length, t[q + j]? = pat[j]?) ∧
    (firstMatch pat t = none ↔ ¬ ∃ p, p + pat.length ≤ t.length ∧ ∀ j < pat.length, t[p + j]? = pat[j]?)

/-- SCANA at dispatch: with a legal configuration it clears its counters and enters SCANA; with any illegal field it
completes with CFG; nothing else changes (section 3). -/
def Obligations.ScanaStartsWhenConfigured : Prop :=
  ∀ s : State,
    (ScanaConfigured s → exec .scana s = .next { s with mcnt := 0, acnt := 0, mpos := 0, phase := .scana }) ∧
    (¬ ScanaConfigured s → exec .scana s = .next { s with
      code := .cfg, phase := .idle, flags := { s.flags with done := true, err := true } })

/-- SCANS at dispatch: with a legal configuration it clears its counters and enters HUNT, buffer A untouched; with any
illegal field it completes with CFG; nothing else changes (section 4). -/
def Obligations.ScansStartsWhenConfigured : Prop :=
  ∀ s : State,
    (ScansConfigured s → exec .scans s = .next { s with acnt := 0, ccnt := 0, phase := .hunt }) ∧
    (¬ ScansConfigured s → exec .scans s = .next { s with
      code := .cfg, phase := .idle, flags := { s.flags with done := true, err := true } })

/-- R120: `u_req` is 1 exactly in the scan phases, and `u_max` is UW; a unit offered then is consumed, as one attempt,
and a unit offered in any other phase changes nothing of the SFS. -/
def Obligations.UnitsWaitForTheRequest : Prop :=
  ∀ (s : State) (data : UnitValue) (c : BitVec 4), s.meets (.unitOffer data c) →
    (uReq s = true ↔ s.phase = .scana ∨ s.phase = .hunt ∨ s.phase = .capture) ∧ uMax s = s.uw ∧
    (uReq s = true → ∃ t, step s = .next t ∧ t.acnt = s.acnt + 1) ∧
    (uReq s = false → step s = .next s.rest)

/-- R126: every consumed unit counts as an attempt. One of more bytes than UW ends the scan with UNIT, LAST and LASTCNT
unchanged; any other is recorded in LAST and LASTCNT, and sets SHORT when it has more than 0 and fewer than UW bytes. -/
def Obligations.UnitStepRecordsTheUnit : Prop :=
  ∀ (s : State) (data : UnitValue) (c : BitVec 4), s.meets (.unitOffer data c) →
    (s.phase = .scana ∨ s.phase = .hunt ∨ s.phase = .capture) →
    (s.uw.toNat < c.toNat → step s = .next { s with
      inputs := s.inputs.tail, acnt := s.acnt + 1, code := .unit, phase := .idle,
      flags := { s.flags with done := true, err := true } }) ∧
    (c.toNat ≤ s.uw.toNat → ∃ t, step s = .next t ∧ t.acnt = s.acnt + 1 ∧
      t.lastHi ++ t.lastLo = assemble data c.toNat s.bord ∧ t.lastcnt = c ∧
      t.flags.short = (s.flags.short || decide (0 < c.toNat ∧ c.toNat < s.uw.toNat)))

/-- SCANA's unit step, after the common prologue `r`: a matching unit counts once and gives MPOS; the N-th gives FOUND,
before the attempt cap is looked at; otherwise the MAX-th attempt gives DISC_TIMEOUT (R128, R129). -/
def Obligations.ScanaUnitStepCountsMatches : Prop :=
  ∀ (s : State) (data : UnitValue) (c : BitVec 4), s.meets (.unitOffer data c) → s.phase = .scana →
    ScanaConfigured s → c.toNat ≤ s.uw.toNat →
    let v := assemble data c.toNat s.bord
    let r := { s with
      inputs := s.inputs.tail, acnt := s.acnt + 1, lastHi := v.extractLsb' 32 32, lastLo := v.extractLsb' 0 32,
      lastcnt := c,
      flags := { s.flags with short := s.flags.short || decide (0 < c.toNat ∧ c.toNat < s.uw.toNat) } }
    let timeout := fun u : State =>
      { u with code := .discTimeout, phase := .idle, flags := { u.flags with done := true, err := true } }
    (c = 0 ∨ firstMatch s.pattern (hexText v c.toNat s.rend) = none →
      step s = .next (if s.acnt + 1 = s.maxatt then timeout r else r)) ∧
    (c ≠ 0 → ∀ p, firstMatch s.pattern (hexText v c.toNat s.rend) = some p → p < 16 ∧
      let m := { r with mcnt := s.mcnt + 1, mpos := BitVec.ofNat 4 p }
      step s = .next (
        if s.mcnt + 1 = s.nmatch then
          { m with code := .found, phase := .idle, flags := { r.flags with done := true, found := true } }
        else if s.acnt + 1 = s.maxatt then timeout m else m))

/-- SCANS's unit step in HUNT, after the common prologue `r`: a non-empty unit whose value is SENT clears buffer A and
CCNT and starts the capture; then the MAX-th attempt gives FRAME_TIMEOUT after the sentinel and SENT_TIMEOUT without
it (R132, R134). -/
def Obligations.HuntUnitStepSeeksTheSentinel : Prop :=
  ∀ (s : State) (data : UnitValue) (c : BitVec 4), s.meets (.unitOffer data c) → s.phase = .hunt →
    c.toNat ≤ s.uw.toNat →
    let v := assemble data c.toNat s.bord
    let r := { s with
      inputs := s.inputs.tail, acnt := s.acnt + 1, lastHi := v.extractLsb' 32 32, lastLo := v.extractLsb' 0 32,
      lastcnt := c,
      flags := { s.flags with short := s.flags.short || decide (0 < c.toNat ∧ c.toNat < s.uw.toNat) } }
    (c ≠ 0 ∧ v = s.sentHi ++ s.sentLo → ∃ t, step s = .next t ∧ (∀ i < 128, digitAt t.bufA i = 0) ∧
      { t with bufA := s.bufA } =
        if s.acnt + 1 = s.maxatt then
          { r with ccnt := 0, code := .frameTimeout, phase := .idle, flags := { r.flags with done := true, err := true } }
        else { r with ccnt := 0, phase := .capture }) ∧
    (¬ (c ≠ 0 ∧ v = s.sentHi ++ s.sentLo) → step s = .next (
      if s.acnt + 1 = s.maxatt then
        { r with code := .sentTimeout, phase := .idle, flags := { r.flags with done := true, err := true } }
      else r))

/-- SCANS's unit step in CAPTURE, after the common prologue `r`: a non-empty unit fills the next 16 digits of buffer A
and no other digit; the K-th gives FRAME_READY, before the attempt cap is looked at; otherwise the MAX-th attempt gives
FRAME_TIMEOUT (R133, R134). -/
def Obligations.CaptureUnitStepFillsTheFrame : Prop :=
  ∀ (s : State) (data : UnitValue) (c : BitVec 4), s.meets (.unitOffer data c) → s.phase = .capture →
    c.toNat ≤ s.uw.toNat → s.ccnt.toNat < s.frmk.toNat → s.frmk.toNat ≤ 8 →
    let v := assemble data c.toNat s.bord
    let r := { s with
      inputs := s.inputs.tail, acnt := s.acnt + 1, lastHi := v.extractLsb' 32 32, lastLo := v.extractLsb' 0 32,
      lastcnt := c,
      flags := { s.flags with short := s.flags.short || decide (0 < c.toNat ∧ c.toNat < s.uw.toNat) } }
    let timeout := fun u : State =>
      { u with code := .frameTimeout, phase := .idle, flags := { u.flags with done := true, err := true } }
    (c = 0 → step s = .next (if s.acnt + 1 = s.maxatt then timeout r else r)) ∧
    (c ≠ 0 → ∃ t, step s = .next t ∧
      (∀ j < 16, digitAt t.bufA (16 * s.ccnt.toNat + j) = v.extractLsb' (63 - 4 * j - 3) 4) ∧
      (∀ i < 128, i < 16 * s.ccnt.toNat ∨ 16 * s.ccnt.toNat + 16 ≤ i → digitAt t.bufA i = digitAt s.bufA i) ∧
      let k := { r with ccnt := s.ccnt + 1 }
      { t with bufA := s.bufA } =
        if s.ccnt + 1 = s.frmk then
          { k with code := .frameReady, phase := .idle, flags := { r.flags with done := true, frame := true } }
        else if s.acnt + 1 = s.maxatt then timeout k else k)

/-- R137 (a): from the dispatch of a SCANA on, and with the feed below the attempt cap, the scan completes with FOUND in
exactly the unit step that brings the number of matching units to N, and is running, with MCNT that number, before
it. -/
def Obligations.FoundExactlyAtTheNthMatch : Prop :=
  ∀ (s : State) (us : List (UnitValue × BitVec 4)) (u : UnitValue × BitVec 4) (rest : List Input),
    s.phase = .scana → s.resetPin = false → ScanaConfigured s → s.mcnt = 0 → s.acnt = 0 →
    s.inputs = offers (us ++ [u]) ++ rest → (∀ x ∈ us ++ [u], x.2.toNat ≤ s.uw.toNat) →
    us.length + 1 ≤ s.maxatt.toNat → us.countP (unitMatches s) + 1 = s.nmatch.toNat → unitMatches s u = true →
    (∃ t, Sys2Proof.core.run (us.length + 1) s = .next t ∧ t.phase = .idle ∧ t.code = .found ∧ t.flags.found = true ∧
      t.mcnt = s.nmatch ∧ t.acnt.toNat = us.length + 1) ∧
    ∀ k ≤ us.length, ∃ t, Sys2Proof.core.run k s = .next t ∧ t.phase = .scana ∧ t.code = s.code ∧
      t.mcnt.toNat = (us.take k).countP (unitMatches s)

/-- R137 (b): from the dispatch of a SCANA on, if no unit matches, the scan completes with DISC_TIMEOUT in exactly the
MAX-th unit step, with ACNT = MAX and MCNT = 0, and is running before it. -/
def Obligations.TimeoutExactlyAtTheLastAttempt : Prop :=
  ∀ (s : State) (us : List (UnitValue × BitVec 4)) (rest : List Input),
    s.phase = .scana → s.resetPin = false → ScanaConfigured s → s.mcnt = 0 → s.acnt = 0 →
    s.inputs = offers us ++ rest → (∀ x ∈ us, x.2.toNat ≤ s.uw.toNat) → us.length = s.maxatt.toNat →
    (∀ x ∈ us, unitMatches s x = false) →
    (∃ t, Sys2Proof.core.run us.length s = .next t ∧ t.phase = .idle ∧ t.code = .discTimeout ∧ t.flags.err = true ∧
      t.acnt = s.maxatt ∧ t.mcnt = 0) ∧
    ∀ k < us.length, ∃ t, Sys2Proof.core.run k s = .next t ∧ t.phase = .scana ∧ t.acnt.toNat = k

/-! ## The endian reorderer (42_endian_reorder.md) -/

/-- REORD over a legal range writes the range's bytes in reverse order from digit 0 of the destination, each byte's two
digits in order; the other digits of the destination, the other buffer and all else but the completion are unchanged
(R162 is its closed form). -/
def Obligations.ReordReversesTheBytes : Prop :=
  ∀ (s : State) (src dst : BufSel) (hi lo : Nat), lo % 2 = 0 → hi % 2 = 1 → lo < hi → hi ≤ 127 →
    ∃ t, exec (.reord src dst hi lo) s = .next t ∧
      (∀ k, 2 * k < hi - lo + 1 →
        digitAt (t.buf dst) (2 * k) = digitAt (s.buf src) (hi - 1 - 2 * k) ∧
        digitAt (t.buf dst) (2 * k + 1) = digitAt (s.buf src) (hi - 2 * k)) ∧
      (∀ i, hi - lo + 1 ≤ i → digitAt (t.buf dst) i = digitAt (s.buf dst) i) ∧
      (∀ e, e ≠ dst → t.buf e = s.buf e) ∧
      { t with bufA := s.bufA, bufB := s.bufB } =
        { s with code := .ok, phase := .idle, flags := { s.flags with done := true } }

/-- R161: a range is legal exactly when lo is even, hi is odd and lo < hi; every other pair of 7-bit operands completes
with RANGE and writes nothing else. -/
def Obligations.ReordRefusesOtherRanges : Prop :=
  ∀ (s : State) (src dst : BufSel) (hi lo : Nat), hi ≤ 127 → lo ≤ 127 →
    (lo % 2 = 0 ∧ hi % 2 = 1 ∧ lo < hi → ∃ t, exec (.reord src dst hi lo) s = .next t ∧ t.code = .ok) ∧
    (¬ (lo % 2 = 0 ∧ hi % 2 = 1 ∧ lo < hi) → exec (.reord src dst hi lo) s = .next { s with
      code := .range, phase := .idle, flags := { s.flags with done := true, err := true } })

/-- R163: a legal REORD, then REORD of its destination over (L-1, 0), leaves the source range at the second destination's
digits 0 to L-1. -/
def Obligations.ReordTwiceRestoresTheRange : Prop :=
  ∀ (s : State) (src mid dst : BufSel) (hi lo : Nat), lo % 2 = 0 → hi % 2 = 1 → lo < hi → hi ≤ 127 →
    ∃ t u, exec (.reord src mid hi lo) s = .next t ∧ exec (.reord mid dst (hi - lo) 0) t = .next u ∧
      ∀ i, i < hi - lo + 1 → digitAt (u.buf dst) i = digitAt (s.buf src) (lo + i)

/-! ## The field remapper (43_field_remap.md) -/

/-- REMAP over legal operands: digit j of every group is the source's digit perm(j), by the table of R177; the digits
outside the groups, the other buffer and all else but the completion are unchanged. -/
def Obligations.RemapPermutesEachGroup : Prop :=
  ∀ (s : State) (src dst : BufSel) (base g : Nat), 1 ≤ g → base + 12 * g ≤ 128 →
    ∃ t, exec (.remap src dst base g) s = .next t ∧
      (∀ n < g, ∀ j, ∀ p ∈ [2, 3, 0, 1, 6, 7, 4, 5, 10, 11, 8, 9][j]?,
        digitAt (t.buf dst) (base + 12 * n + j) = digitAt (s.buf src) (base + 12 * n + p)) ∧
      (∀ i, i < base ∨ base + 12 * g ≤ i → digitAt (t.buf dst) i = digitAt (s.buf dst) i) ∧
      (∀ e, e ≠ dst → t.buf e = s.buf e) ∧
      { t with bufA := s.bufA, bufB := s.bufB } =
        { s with code := .ok, phase := .idle, flags := { s.flags with done := true } }

/-- R176: the operands are legal exactly when G ≥ 1 and base + 12·G ≤ 128; every other pair completes with RANGE and
writes nothing else. -/
def Obligations.RemapRefusesGroupsOutsideTheBuffer : Prop :=
  ∀ (s : State) (src dst : BufSel) (base g : Nat),
    (1 ≤ g ∧ base + 12 * g ≤ 128 → ∃ t, exec (.remap src dst base g) s = .next t ∧ t.code = .ok) ∧
    (¬ (1 ≤ g ∧ base + 12 * g ≤ 128) → exec (.remap src dst base g) s = .next { s with
      code := .range, phase := .idle, flags := { s.flags with done := true, err := true } })

/-- REMAP in place, twice with the same legal operands, restores the state but for the completion of an OK command
(43_field_remap.md, corner cases of REMAP). -/
def Obligations.RemapTwiceInPlaceRestores : Prop :=
  ∀ (s : State) (src : BufSel) (base g : Nat), 1 ≤ g → base + 12 * g ≤ 128 →
    ∃ t, exec (.remap src src base g) s = .next t ∧
      exec (.remap src src base g) t = .next { s with
        code := .ok, phase := .idle, flags := { s.flags with done := true } }

/-- Over exactly the groups at the start of the buffer, REORD then REMAP and REMAP then REORD give the same digits of the
destination (the commuting case of R179). -/
def Obligations.ReordAndRemapCommuteOnWholeGroups : Prop :=
  ∀ (s : State) (src dst : BufSel) (g : Nat), 1 ≤ g → 12 * g ≤ 128 →
    ∃ t u t' u', exec (.reord src dst (12 * g - 1) 0) s = .next t ∧ exec (.remap dst dst 0 g) t = .next u ∧
      exec (.remap src src 0 g) s = .next t' ∧ exec (.reord src dst (12 * g - 1) 0) t' = .next u' ∧
      ∀ i < 12 * g, digitAt (u.buf dst) i = digitAt (u'.buf dst) i

/-! ## CVT and CLR (44_convert_clear.md) -/

/-- CVT at a legal offset: RES is the byte-swapped field, read as a signed 16-bit number, divided by 4 and rounded toward
minus infinity, so it lies from -8192 to 8191; all else but the completion is unchanged. -/
def Obligations.CvtSwapsAndShifts : Prop :=
  ∀ (s : State) (src : BufSel) (off : Nat), off ≤ 124 →
    let d := fun i => (digitAt (s.buf src) (off + i)).toNat
    ∃ t, exec (.cvt src off) s = .next t ∧
      t.res.toInt = (BitVec.ofNat 16 (256 * (16 * d 2 + d 3) + (16 * d 0 + d 1))).toInt.fdiv 4 ∧
      -8192 ≤ t.res.toInt ∧ t.res.toInt ≤ 8191 ∧
      { t with res := s.res } = { s with code := .ok, phase := .idle, flags := { s.flags with done := true } }

/-- R191: every offset up to 124 is legal, and every other completes with RANGE, RES unchanged. -/
def Obligations.CvtRefusesOffsetsOutsideTheBuffer : Prop :=
  ∀ (s : State) (src : BufSel) (off : Nat),
    (off ≤ 124 → ∃ t, exec (.cvt src off) s = .next t ∧ t.code = .ok) ∧
    (124 < off → exec (.cvt src off) s = .next { s with
      code := .range, phase := .idle, flags := { s.flags with done := true, err := true } })

/-- CLR makes every digit of its buffer 0; the other buffer and all else but the completion are unchanged. -/
def Obligations.ClrClearsItsBuffer : Prop :=
  ∀ (s : State) (src : BufSel), ∃ t, exec (.clr src) s = .next t ∧ (∀ i < 128, digitAt (t.buf src) i = 0) ∧
    (∀ e, e ≠ src → t.buf e = s.buf e) ∧
    { t with bufA := s.bufA, bufB := s.bufB } =
      { s with code := .ok, phase := .idle, flags := { s.flags with done := true } }

/-- The idempotence of the transforms: run again right after itself, from a source it has not changed, each of REORD,
REMAP, CVT and CLR gives the same state again (section 2). -/
def Obligations.TransformsAreIdempotent : Prop :=
  ∀ (s t : State) (i : Instr) (src dst : BufSel) (m n : Nat), src ≠ dst →
    i = .reord src dst m n ∨ i = .remap src dst m n ∨ i = .cvt src m ∨ i = .clr src →
    exec i s = .next t → ∀ s', s'.bufA = t.bufA → s'.bufB = t.bufB → s'.res = t.res → ∃ t', exec i s' = .next t' ∧
      t'.bufA = t.bufA ∧ t'.bufB = t.bufB ∧ t'.res = t.res ∧ t'.code = t.code

/-! ## Completion, interrupt, reset and the machine as a whole (60_exceptions.md, 70_reset_and_hazards.md) -/

/-- There are no traps: in every state, the machine takes a step to a next state (60_exceptions.md section 1). -/
def Obligations.EveryStateStepsOn : Prop := ∀ s : State, s.stepsOn

/-- A command ends only by a completion or a reset: a step from busy to idle resets the SFS or sets DONE and moves no
other command; and CODE changes only at such a step (60_exceptions.md section 2). -/
def Obligations.CommandsEndByCompletionOrReset : Prop :=
  ∀ s t : State, step s = .next t → ¬ s.resetting →
    (s.phase ≠ .idle → t.phase = .idle → t.flags.done = true) ∧
    (t.code ≠ s.code → s.phase ≠ .idle ∧ t.phase = .idle ∧ t.flags.done = true)

/-- The flags are sticky: a step clears none of them but a reset or a host write to STATUS (60_exceptions.md
section 2). -/
def Obligations.FlagsAreSticky : Prop :=
  ∀ s t : State, step s = .next t → ¬ s.resetting →
    (∀ off v, s.event = some (.hostWrite off v) → off.toNat / 4 ≠ 0x008 / 4) →
    (s.flags.done = true → t.flags.done = true) ∧ (s.flags.found = true → t.flags.found = true) ∧
    (s.flags.frame = true → t.flags.frame = true) ∧ (s.flags.err = true → t.flags.err = true) ∧
    (s.flags.bwe = true → t.flags.bwe = true) ∧ (s.flags.short = true → t.flags.short = true)

/-- The interrupt output is high exactly when some bit 1 to 6 is set both in STATUS and in IEN, as the host reads them
(60_exceptions.md section 5). -/
def Obligations.IrqIsAnEnabledPendingFlag : Prop :=
  ∀ s : State, irq s = true ↔
    ∃ i, 1 ≤ i ∧ i ≤ 6 ∧ (busRead 0x008#12 s).getLsbD i = true ∧ (busRead 0x00C#12 s).getLsbD i = true

/-- While a command is in progress its configuration, its word and LASTOP cannot change, by any step but a reset
(20_memory.md sections 2 and 6). -/
def Obligations.ConfigurationIsFrozenWhileBusy : Prop :=
  ∀ s t : State, step s = .next t → s.phase ≠ .idle → ¬ s.resetting →
    t.bord = s.bord ∧ t.rend = s.rend ∧ t.uw = s.uw ∧ t.nmatch = s.nmatch ∧ t.maxatt = s.maxatt ∧ t.plen = s.plen ∧
    t.pat0 = s.pat0 ∧ t.pat1 = s.pat1 ∧ t.sentLo = s.sentLo ∧ t.sentHi = s.sentHi ∧ t.frmk = s.frmk ∧
    t.xcmd = s.xcmd ∧ t.lastop = s.lastop

/-- RES is written only by the dispatch of a CVT, and MCNT and MPOS only by SCANA, but for a reset (10_state.md
section 11). -/
def Obligations.ResultRegistersHaveOneWriter : Prop :=
  ∀ s t : State, step s = .next t → ¬ s.resetting →
    (t.res ≠ s.res → s.phase = .pending ∧ ∃ src off, decode s.xcmd = .ok (.cvt src off)) ∧
    (t.mcnt ≠ s.mcnt ∨ t.mpos ≠ s.mpos → s.phase = .scana ∨ (s.phase = .pending ∧ decode s.xcmd = .ok .scana))

/-- After a reset, by the reset input or by a soft reset, every readable word, the outputs, the hidden XCMD and both
buffers have the values of the table (70_reset_and_hazards.md section 1), whatever the state was. That they have them as
soon as the reset input is asserted, and not only once it is released, is the model's choice (DESIGN CHOICE, log
entry 5). -/
def Obligations.ResetGivesTheTable : Prop :=
  ∀ s : State, s.event = some (.resetLevel true) ∨ (s.resetPin = false ∧ s.resetting) → ∃ t, step s = .next t ∧
    (∀ off : Offset, busRead off t =
      if off.toNat / 4 = 0 then 0x53465331#32 else if off.toNat / 4 = 1 then 0x00000080#32 else 0) ∧
    t.bord = 0 ∧ t.rend = 0 ∧ t.uw = 8 ∧ t.phase = .idle ∧ t.code = .ok ∧ t.xcmd = 0 ∧
    (∀ i < 128, digitAt t.bufA i = 0 ∧ digitAt t.bufB i = 0) ∧ uReq t = false ∧ uMax t = 8 ∧ irq t = false

/-- While the reset input is asserted nothing takes effect but its own release, after which the state is as it was
(70_reset_and_hazards.md section 1; what the SFS holds while it is asserted is the model's choice, log entry 5). -/
def Obligations.NothingHappensWhileReset : Prop :=
  ∀ s : State, s.resetPin = true →
    (s.event = some (.resetLevel false) → step s = .next { s with inputs := s.inputs.tail, resetPin := false }) ∧
    ((∀ b, s.event ≠ some (.resetLevel b)) → step s = .next s.rest)

/-- The invariant of the machine holds at reset. -/
def Obligations.ResetMeetsTheInvariant : Prop := State.reset.Inv

/-- Every step keeps the invariant: the counters stay below their bounds during a scan, a scan runs only with a legal
configuration, and the frame's rest stays 0. The clause `held_in_reset`, that the SFS holds its reset state while the
reset input is asserted, is the model's choice (DESIGN CHOICE, log entry 5). -/
def Obligations.EveryStepKeepsTheInvariant : Prop :=
  ∀ s t : State, s.Inv → step s = .next t → t.Inv
end

