-- ==== Sys2Proof/Laws/State.lean ====
section
/-! SUPPORT. One lemma per field for each named update of State, so that no proof unfolds a record update. -/

namespace Sys2Proof.Machine

variable (s : State)

/-! ## finish -/

@[simp] theorem finish_bord (c : Code) : (finish c s).bord = s.bord := rfl
@[simp] theorem finish_rend (c : Code) : (finish c s).rend = s.rend := rfl
@[simp] theorem finish_uw (c : Code) : (finish c s).uw = s.uw := rfl
@[simp] theorem finish_flags (c : Code) : (finish c s).flags = s.flags.complete c := rfl
@[simp] theorem finish_code (c : Code) : (finish c s).code = c := rfl
@[simp] theorem finish_lastop (c : Code) : (finish c s).lastop = s.lastop := rfl
@[simp] theorem finish_phase (c : Code) : (finish c s).phase = .idle := rfl
@[simp] theorem finish_ien (c : Code) : (finish c s).ien = s.ien := rfl
@[simp] theorem finish_nmatch (c : Code) : (finish c s).nmatch = s.nmatch := rfl
@[simp] theorem finish_maxatt (c : Code) : (finish c s).maxatt = s.maxatt := rfl
@[simp] theorem finish_plen (c : Code) : (finish c s).plen = s.plen := rfl
@[simp] theorem finish_pat0 (c : Code) : (finish c s).pat0 = s.pat0 := rfl
@[simp] theorem finish_pat1 (c : Code) : (finish c s).pat1 = s.pat1 := rfl
@[simp] theorem finish_sentLo (c : Code) : (finish c s).sentLo = s.sentLo := rfl
@[simp] theorem finish_sentHi (c : Code) : (finish c s).sentHi = s.sentHi := rfl
@[simp] theorem finish_frmk (c : Code) : (finish c s).frmk = s.frmk := rfl
@[simp] theorem finish_mcnt (c : Code) : (finish c s).mcnt = s.mcnt := rfl
@[simp] theorem finish_acnt (c : Code) : (finish c s).acnt = s.acnt := rfl
@[simp] theorem finish_mpos (c : Code) : (finish c s).mpos = s.mpos := rfl
@[simp] theorem finish_lastLo (c : Code) : (finish c s).lastLo = s.lastLo := rfl
@[simp] theorem finish_lastHi (c : Code) : (finish c s).lastHi = s.lastHi := rfl
@[simp] theorem finish_lastcnt (c : Code) : (finish c s).lastcnt = s.lastcnt := rfl
@[simp] theorem finish_res (c : Code) : (finish c s).res = s.res := rfl
@[simp] theorem finish_ccnt (c : Code) : (finish c s).ccnt = s.ccnt := rfl
@[simp] theorem finish_bufA (c : Code) : (finish c s).bufA = s.bufA := rfl
@[simp] theorem finish_bufB (c : Code) : (finish c s).bufB = s.bufB := rfl
@[simp] theorem finish_xcmd (c : Code) : (finish c s).xcmd = s.xcmd := rfl
@[simp] theorem finish_resetPin (c : Code) : (finish c s).resetPin = s.resetPin := rfl
@[simp] theorem finish_inputs (c : Code) : (finish c s).inputs = s.inputs := rfl
@[simp] theorem finish_readData (c : Code) : (finish c s).readData = s.readData := rfl

/-! ## accept -/

@[simp] theorem accept_bord (w : Word) : (accept w s).bord = s.bord := rfl
@[simp] theorem accept_rend (w : Word) : (accept w s).rend = s.rend := rfl
@[simp] theorem accept_uw (w : Word) : (accept w s).uw = s.uw := rfl
@[simp] theorem accept_flags (w : Word) : (accept w s).flags = s.flags := rfl
@[simp] theorem accept_code (w : Word) : (accept w s).code = s.code := rfl
@[simp] theorem accept_lastop (w : Word) : (accept w s).lastop = w.extractLsb' 0 4 := rfl
@[simp] theorem accept_phase (w : Word) : (accept w s).phase = .pending := rfl
@[simp] theorem accept_ien (w : Word) : (accept w s).ien = s.ien := rfl
@[simp] theorem accept_nmatch (w : Word) : (accept w s).nmatch = s.nmatch := rfl
@[simp] theorem accept_maxatt (w : Word) : (accept w s).maxatt = s.maxatt := rfl
@[simp] theorem accept_plen (w : Word) : (accept w s).plen = s.plen := rfl
@[simp] theorem accept_pat0 (w : Word) : (accept w s).pat0 = s.pat0 := rfl
@[simp] theorem accept_pat1 (w : Word) : (accept w s).pat1 = s.pat1 := rfl
@[simp] theorem accept_sentLo (w : Word) : (accept w s).sentLo = s.sentLo := rfl
@[simp] theorem accept_sentHi (w : Word) : (accept w s).sentHi = s.sentHi := rfl
@[simp] theorem accept_frmk (w : Word) : (accept w s).frmk = s.frmk := rfl
@[simp] theorem accept_mcnt (w : Word) : (accept w s).mcnt = s.mcnt := rfl
@[simp] theorem accept_acnt (w : Word) : (accept w s).acnt = s.acnt := rfl
@[simp] theorem accept_mpos (w : Word) : (accept w s).mpos = s.mpos := rfl
@[simp] theorem accept_lastLo (w : Word) : (accept w s).lastLo = s.lastLo := rfl
@[simp] theorem accept_lastHi (w : Word) : (accept w s).lastHi = s.lastHi := rfl
@[simp] theorem accept_lastcnt (w : Word) : (accept w s).lastcnt = s.lastcnt := rfl
@[simp] theorem accept_res (w : Word) : (accept w s).res = s.res := rfl
@[simp] theorem accept_ccnt (w : Word) : (accept w s).ccnt = s.ccnt := rfl
@[simp] theorem accept_bufA (w : Word) : (accept w s).bufA = s.bufA := rfl
@[simp] theorem accept_bufB (w : Word) : (accept w s).bufB = s.bufB := rfl
@[simp] theorem accept_xcmd (w : Word) : (accept w s).xcmd = w := rfl
@[simp] theorem accept_resetPin (w : Word) : (accept w s).resetPin = s.resetPin := rfl
@[simp] theorem accept_inputs (w : Word) : (accept w s).inputs = s.inputs := rfl
@[simp] theorem accept_readData (w : Word) : (accept w s).readData = s.readData := rfl

/-! ## busyWriteError -/

@[simp] theorem busyWriteError_bord : (busyWriteError s).bord = s.bord := rfl
@[simp] theorem busyWriteError_rend : (busyWriteError s).rend = s.rend := rfl
@[simp] theorem busyWriteError_uw : (busyWriteError s).uw = s.uw := rfl
@[simp] theorem busyWriteError_flags : (busyWriteError s).flags = { s.flags with bwe := true } := rfl
@[simp] theorem busyWriteError_code : (busyWriteError s).code = s.code := rfl
@[simp] theorem busyWriteError_lastop : (busyWriteError s).lastop = s.lastop := rfl
@[simp] theorem busyWriteError_phase : (busyWriteError s).phase = s.phase := rfl
@[simp] theorem busyWriteError_ien : (busyWriteError s).ien = s.ien := rfl
@[simp] theorem busyWriteError_nmatch : (busyWriteError s).nmatch = s.nmatch := rfl
@[simp] theorem busyWriteError_maxatt : (busyWriteError s).maxatt = s.maxatt := rfl
@[simp] theorem busyWriteError_plen : (busyWriteError s).plen = s.plen := rfl
@[simp] theorem busyWriteError_pat0 : (busyWriteError s).pat0 = s.pat0 := rfl
@[simp] theorem busyWriteError_pat1 : (busyWriteError s).pat1 = s.pat1 := rfl
@[simp] theorem busyWriteError_sentLo : (busyWriteError s).sentLo = s.sentLo := rfl
@[simp] theorem busyWriteError_sentHi : (busyWriteError s).sentHi = s.sentHi := rfl
@[simp] theorem busyWriteError_frmk : (busyWriteError s).frmk = s.frmk := rfl
@[simp] theorem busyWriteError_mcnt : (busyWriteError s).mcnt = s.mcnt := rfl
@[simp] theorem busyWriteError_acnt : (busyWriteError s).acnt = s.acnt := rfl
@[simp] theorem busyWriteError_mpos : (busyWriteError s).mpos = s.mpos := rfl
@[simp] theorem busyWriteError_lastLo : (busyWriteError s).lastLo = s.lastLo := rfl
@[simp] theorem busyWriteError_lastHi : (busyWriteError s).lastHi = s.lastHi := rfl
@[simp] theorem busyWriteError_lastcnt : (busyWriteError s).lastcnt = s.lastcnt := rfl
@[simp] theorem busyWriteError_res : (busyWriteError s).res = s.res := rfl
@[simp] theorem busyWriteError_ccnt : (busyWriteError s).ccnt = s.ccnt := rfl
@[simp] theorem busyWriteError_bufA : (busyWriteError s).bufA = s.bufA := rfl
@[simp] theorem busyWriteError_bufB : (busyWriteError s).bufB = s.bufB := rfl
@[simp] theorem busyWriteError_xcmd : (busyWriteError s).xcmd = s.xcmd := rfl
@[simp] theorem busyWriteError_resetPin : (busyWriteError s).resetPin = s.resetPin := rfl
@[simp] theorem busyWriteError_inputs : (busyWriteError s).inputs = s.inputs := rfl
@[simp] theorem busyWriteError_readData : (busyWriteError s).readData = s.readData := rfl

/-! ## resetAction -/

@[simp] theorem resetAction_bord : (resetAction s).bord = State.reset.bord := rfl
@[simp] theorem resetAction_rend : (resetAction s).rend = State.reset.rend := rfl
@[simp] theorem resetAction_uw : (resetAction s).uw = State.reset.uw := rfl
@[simp] theorem resetAction_flags : (resetAction s).flags = State.reset.flags := rfl
@[simp] theorem resetAction_code : (resetAction s).code = State.reset.code := rfl
@[simp] theorem resetAction_lastop : (resetAction s).lastop = State.reset.lastop := rfl
@[simp] theorem resetAction_phase : (resetAction s).phase = State.reset.phase := rfl
@[simp] theorem resetAction_ien : (resetAction s).ien = State.reset.ien := rfl
@[simp] theorem resetAction_nmatch : (resetAction s).nmatch = State.reset.nmatch := rfl
@[simp] theorem resetAction_maxatt : (resetAction s).maxatt = State.reset.maxatt := rfl
@[simp] theorem resetAction_plen : (resetAction s).plen = State.reset.plen := rfl
@[simp] theorem resetAction_pat0 : (resetAction s).pat0 = State.reset.pat0 := rfl
@[simp] theorem resetAction_pat1 : (resetAction s).pat1 = State.reset.pat1 := rfl
@[simp] theorem resetAction_sentLo : (resetAction s).sentLo = State.reset.sentLo := rfl
@[simp] theorem resetAction_sentHi : (resetAction s).sentHi = State.reset.sentHi := rfl
@[simp] theorem resetAction_frmk : (resetAction s).frmk = State.reset.frmk := rfl
@[simp] theorem resetAction_mcnt : (resetAction s).mcnt = State.reset.mcnt := rfl
@[simp] theorem resetAction_acnt : (resetAction s).acnt = State.reset.acnt := rfl
@[simp] theorem resetAction_mpos : (resetAction s).mpos = State.reset.mpos := rfl
@[simp] theorem resetAction_lastLo : (resetAction s).lastLo = State.reset.lastLo := rfl
@[simp] theorem resetAction_lastHi : (resetAction s).lastHi = State.reset.lastHi := rfl
@[simp] theorem resetAction_lastcnt : (resetAction s).lastcnt = State.reset.lastcnt := rfl
@[simp] theorem resetAction_res : (resetAction s).res = State.reset.res := rfl
@[simp] theorem resetAction_ccnt : (resetAction s).ccnt = State.reset.ccnt := rfl
@[simp] theorem resetAction_bufA : (resetAction s).bufA = State.reset.bufA := rfl
@[simp] theorem resetAction_bufB : (resetAction s).bufB = State.reset.bufB := rfl
@[simp] theorem resetAction_xcmd : (resetAction s).xcmd = State.reset.xcmd := rfl
@[simp] theorem resetAction_resetPin : (resetAction s).resetPin = s.resetPin := rfl
@[simp] theorem resetAction_inputs : (resetAction s).inputs = s.inputs := rfl
@[simp] theorem resetAction_readData : (resetAction s).readData = s.readData := rfl

/-! ## rest -/

@[simp] theorem rest_bord : (s.rest).bord = s.bord := rfl
@[simp] theorem rest_rend : (s.rest).rend = s.rend := rfl
@[simp] theorem rest_uw : (s.rest).uw = s.uw := rfl
@[simp] theorem rest_flags : (s.rest).flags = s.flags := rfl
@[simp] theorem rest_code : (s.rest).code = s.code := rfl
@[simp] theorem rest_lastop : (s.rest).lastop = s.lastop := rfl
@[simp] theorem rest_phase : (s.rest).phase = s.phase := rfl
@[simp] theorem rest_ien : (s.rest).ien = s.ien := rfl
@[simp] theorem rest_nmatch : (s.rest).nmatch = s.nmatch := rfl
@[simp] theorem rest_maxatt : (s.rest).maxatt = s.maxatt := rfl
@[simp] theorem rest_plen : (s.rest).plen = s.plen := rfl
@[simp] theorem rest_pat0 : (s.rest).pat0 = s.pat0 := rfl
@[simp] theorem rest_pat1 : (s.rest).pat1 = s.pat1 := rfl
@[simp] theorem rest_sentLo : (s.rest).sentLo = s.sentLo := rfl
@[simp] theorem rest_sentHi : (s.rest).sentHi = s.sentHi := rfl
@[simp] theorem rest_frmk : (s.rest).frmk = s.frmk := rfl
@[simp] theorem rest_mcnt : (s.rest).mcnt = s.mcnt := rfl
@[simp] theorem rest_acnt : (s.rest).acnt = s.acnt := rfl
@[simp] theorem rest_mpos : (s.rest).mpos = s.mpos := rfl
@[simp] theorem rest_lastLo : (s.rest).lastLo = s.lastLo := rfl
@[simp] theorem rest_lastHi : (s.rest).lastHi = s.lastHi := rfl
@[simp] theorem rest_lastcnt : (s.rest).lastcnt = s.lastcnt := rfl
@[simp] theorem rest_res : (s.rest).res = s.res := rfl
@[simp] theorem rest_ccnt : (s.rest).ccnt = s.ccnt := rfl
@[simp] theorem rest_bufA : (s.rest).bufA = s.bufA := rfl
@[simp] theorem rest_bufB : (s.rest).bufB = s.bufB := rfl
@[simp] theorem rest_xcmd : (s.rest).xcmd = s.xcmd := rfl
@[simp] theorem rest_resetPin : (s.rest).resetPin = s.resetPin := rfl
@[simp] theorem rest_inputs : (s.rest).inputs = s.inputs.tail := rfl
@[simp] theorem rest_readData : (s.rest).readData = s.readData := rfl

/-! ## recordUnit -/

@[simp] theorem recordUnit_bord (data : UnitValue) (c : BitVec 4) : (recordUnit data c s).bord = s.bord := rfl
@[simp] theorem recordUnit_rend (data : UnitValue) (c : BitVec 4) : (recordUnit data c s).rend = s.rend := rfl
@[simp] theorem recordUnit_uw (data : UnitValue) (c : BitVec 4) : (recordUnit data c s).uw = s.uw := rfl
@[simp] theorem recordUnit_flags (data : UnitValue) (c : BitVec 4) : (recordUnit data c s).flags = s.flags.noteShort c s.uw := rfl
@[simp] theorem recordUnit_code (data : UnitValue) (c : BitVec 4) : (recordUnit data c s).code = s.code := rfl
@[simp] theorem recordUnit_lastop (data : UnitValue) (c : BitVec 4) : (recordUnit data c s).lastop = s.lastop := rfl
@[simp] theorem recordUnit_phase (data : UnitValue) (c : BitVec 4) : (recordUnit data c s).phase = s.phase := rfl
@[simp] theorem recordUnit_ien (data : UnitValue) (c : BitVec 4) : (recordUnit data c s).ien = s.ien := rfl
@[simp] theorem recordUnit_nmatch (data : UnitValue) (c : BitVec 4) : (recordUnit data c s).nmatch = s.nmatch := rfl
@[simp] theorem recordUnit_maxatt (data : UnitValue) (c : BitVec 4) : (recordUnit data c s).maxatt = s.maxatt := rfl
@[simp] theorem recordUnit_plen (data : UnitValue) (c : BitVec 4) : (recordUnit data c s).plen = s.plen := rfl
@[simp] theorem recordUnit_pat0 (data : UnitValue) (c : BitVec 4) : (recordUnit data c s).pat0 = s.pat0 := rfl
@[simp] theorem recordUnit_pat1 (data : UnitValue) (c : BitVec 4) : (recordUnit data c s).pat1 = s.pat1 := rfl
@[simp] theorem recordUnit_sentLo (data : UnitValue) (c : BitVec 4) : (recordUnit data c s).sentLo = s.sentLo := rfl
@[simp] theorem recordUnit_sentHi (data : UnitValue) (c : BitVec 4) : (recordUnit data c s).sentHi = s.sentHi := rfl
@[simp] theorem recordUnit_frmk (data : UnitValue) (c : BitVec 4) : (recordUnit data c s).frmk = s.frmk := rfl
@[simp] theorem recordUnit_mcnt (data : UnitValue) (c : BitVec 4) : (recordUnit data c s).mcnt = s.mcnt := rfl
@[simp] theorem recordUnit_acnt (data : UnitValue) (c : BitVec 4) : (recordUnit data c s).acnt = s.acnt + 1 := rfl
@[simp] theorem recordUnit_mpos (data : UnitValue) (c : BitVec 4) : (recordUnit data c s).mpos = s.mpos := rfl
@[simp] theorem recordUnit_lastLo (data : UnitValue) (c : BitVec 4) : (recordUnit data c s).lastLo = (assemble data c.toNat s.bord).extractLsb' 0 32 := rfl
@[simp] theorem recordUnit_lastHi (data : UnitValue) (c : BitVec 4) : (recordUnit data c s).lastHi = (assemble data c.toNat s.bord).extractLsb' 32 32 := rfl
@[simp] theorem recordUnit_lastcnt (data : UnitValue) (c : BitVec 4) : (recordUnit data c s).lastcnt = c := rfl
@[simp] theorem recordUnit_res (data : UnitValue) (c : BitVec 4) : (recordUnit data c s).res = s.res := rfl
@[simp] theorem recordUnit_ccnt (data : UnitValue) (c : BitVec 4) : (recordUnit data c s).ccnt = s.ccnt := rfl
@[simp] theorem recordUnit_bufA (data : UnitValue) (c : BitVec 4) : (recordUnit data c s).bufA = s.bufA := rfl
@[simp] theorem recordUnit_bufB (data : UnitValue) (c : BitVec 4) : (recordUnit data c s).bufB = s.bufB := rfl
@[simp] theorem recordUnit_xcmd (data : UnitValue) (c : BitVec 4) : (recordUnit data c s).xcmd = s.xcmd := rfl
@[simp] theorem recordUnit_resetPin (data : UnitValue) (c : BitVec 4) : (recordUnit data c s).resetPin = s.resetPin := rfl
@[simp] theorem recordUnit_inputs (data : UnitValue) (c : BitVec 4) : (recordUnit data c s).inputs = s.inputs := rfl
@[simp] theorem recordUnit_readData (data : UnitValue) (c : BitVec 4) : (recordUnit data c s).readData = s.readData := rfl

/-! ## setBuf and buf -/

@[simp] theorem setBuf_bord (d : BufSel) (x : Buffer) : (s.setBuf d x).bord = s.bord := by cases d <;> rfl
@[simp] theorem setBuf_rend (d : BufSel) (x : Buffer) : (s.setBuf d x).rend = s.rend := by cases d <;> rfl
@[simp] theorem setBuf_uw (d : BufSel) (x : Buffer) : (s.setBuf d x).uw = s.uw := by cases d <;> rfl
@[simp] theorem setBuf_flags (d : BufSel) (x : Buffer) : (s.setBuf d x).flags = s.flags := by cases d <;> rfl
@[simp] theorem setBuf_code (d : BufSel) (x : Buffer) : (s.setBuf d x).code = s.code := by cases d <;> rfl
@[simp] theorem setBuf_lastop (d : BufSel) (x : Buffer) : (s.setBuf d x).lastop = s.lastop := by cases d <;> rfl
@[simp] theorem setBuf_phase (d : BufSel) (x : Buffer) : (s.setBuf d x).phase = s.phase := by cases d <;> rfl
@[simp] theorem setBuf_ien (d : BufSel) (x : Buffer) : (s.setBuf d x).ien = s.ien := by cases d <;> rfl
@[simp] theorem setBuf_nmatch (d : BufSel) (x : Buffer) : (s.setBuf d x).nmatch = s.nmatch := by cases d <;> rfl
@[simp] theorem setBuf_maxatt (d : BufSel) (x : Buffer) : (s.setBuf d x).maxatt = s.maxatt := by cases d <;> rfl
@[simp] theorem setBuf_plen (d : BufSel) (x : Buffer) : (s.setBuf d x).plen = s.plen := by cases d <;> rfl
@[simp] theorem setBuf_pat0 (d : BufSel) (x : Buffer) : (s.setBuf d x).pat0 = s.pat0 := by cases d <;> rfl
@[simp] theorem setBuf_pat1 (d : BufSel) (x : Buffer) : (s.setBuf d x).pat1 = s.pat1 := by cases d <;> rfl
@[simp] theorem setBuf_sentLo (d : BufSel) (x : Buffer) : (s.setBuf d x).sentLo = s.sentLo := by cases d <;> rfl
@[simp] theorem setBuf_sentHi (d : BufSel) (x : Buffer) : (s.setBuf d x).sentHi = s.sentHi := by cases d <;> rfl
@[simp] theorem setBuf_frmk (d : BufSel) (x : Buffer) : (s.setBuf d x).frmk = s.frmk := by cases d <;> rfl
@[simp] theorem setBuf_mcnt (d : BufSel) (x : Buffer) : (s.setBuf d x).mcnt = s.mcnt := by cases d <;> rfl
@[simp] theorem setBuf_acnt (d : BufSel) (x : Buffer) : (s.setBuf d x).acnt = s.acnt := by cases d <;> rfl
@[simp] theorem setBuf_mpos (d : BufSel) (x : Buffer) : (s.setBuf d x).mpos = s.mpos := by cases d <;> rfl
@[simp] theorem setBuf_lastLo (d : BufSel) (x : Buffer) : (s.setBuf d x).lastLo = s.lastLo := by cases d <;> rfl
@[simp] theorem setBuf_lastHi (d : BufSel) (x : Buffer) : (s.setBuf d x).lastHi = s.lastHi := by cases d <;> rfl
@[simp] theorem setBuf_lastcnt (d : BufSel) (x : Buffer) : (s.setBuf d x).lastcnt = s.lastcnt := by cases d <;> rfl
@[simp] theorem setBuf_res (d : BufSel) (x : Buffer) : (s.setBuf d x).res = s.res := by cases d <;> rfl
@[simp] theorem setBuf_ccnt (d : BufSel) (x : Buffer) : (s.setBuf d x).ccnt = s.ccnt := by cases d <;> rfl
@[simp] theorem setBuf_xcmd (d : BufSel) (x : Buffer) : (s.setBuf d x).xcmd = s.xcmd := by cases d <;> rfl
@[simp] theorem setBuf_resetPin (d : BufSel) (x : Buffer) : (s.setBuf d x).resetPin = s.resetPin := by cases d <;> rfl
@[simp] theorem setBuf_inputs (d : BufSel) (x : Buffer) : (s.setBuf d x).inputs = s.inputs := by cases d <;> rfl
@[simp] theorem setBuf_readData (d : BufSel) (x : Buffer) : (s.setBuf d x).readData = s.readData := by cases d <;> rfl

@[simp] theorem setBuf_buf (d e : BufSel) (x : Buffer) : (s.setBuf d x).buf e = if e = d then x else s.buf e := by
  cases d <;> cases e <;> rfl
@[simp] theorem finish_buf (c : Code) (d : BufSel) : (finish c s).buf d = s.buf d := by cases d <;> rfl
@[simp] theorem rest_buf (d : BufSel) : s.rest.buf d = s.buf d := by cases d <;> rfl

/-- Which buffers a write to buffer `d` leaves: a state is its own after the write is undone. -/
theorem setBuf_frame (d : BufSel) (x : Buffer) :
    { s.setBuf d x with bufA := s.bufA, bufB := s.bufB } = s := by cases d <;> rfl

/-! ## The flags -/

variable (f : Flags)

@[simp] theorem complete_done (c : Code) : (f.complete c).done = true := rfl
@[simp] theorem complete_bwe (c : Code) : (f.complete c).bwe = f.bwe := rfl
@[simp] theorem complete_short (c : Code) : (f.complete c).short = f.short := rfl
@[simp] theorem complete_err (c : Code) : (f.complete c).err = (f.err || c.isError) := rfl
@[simp] theorem complete_found (c : Code) : (f.complete c).found = (f.found || decide (c = .found)) := rfl
@[simp] theorem complete_frame (c : Code) : (f.complete c).frame = (f.frame || decide (c = .frameReady)) := rfl

/-- The flags of each kind of completion, spelt out (60_exceptions.md R211, R212). -/
theorem complete_ok : f.complete .ok = { f with done := true } := by simp [Flags.complete, Code.isError, Code.bits]
theorem complete_aborted : f.complete .aborted = { f with done := true } := by
  simp [Flags.complete, Code.isError, Code.bits]
theorem complete_foundCode : f.complete .found = { f with done := true, found := true } := by
  simp [Flags.complete, Code.isError, Code.bits]
theorem complete_frameReady : f.complete .frameReady = { f with done := true, frame := true } := by
  simp [Flags.complete, Code.isError, Code.bits]
theorem complete_error (c : Code) (h : c.isError = true) : f.complete c = { f with done := true, err := true } := by
  cases c <;> simp_all [Flags.complete, Code.isError, Code.bits]

end Sys2Proof.Machine
end

