-- ==== Sys2Proof/Laws/Buffer.lean ====
section
/-! SUPPORT. What reading and writing digits of a buffer and of a 32-bit window does. -/

namespace Sys2Proof.Machine

/-- Beyond the buffer a digit reads 0. -/
theorem digitAt_of_le (b : Buffer) {i : Nat} (h : 128 ≤ i) : digitAt b i = 0 := by
  simp [digitAt, Vector.getElem?_eq_none (by omega : Config.bufDigits ≤ i)]

theorem digitAt_of_lt (b : Buffer) {i : Nat} (h : i < 128) : digitAt b i = b[i] := by
  simp [digitAt, h]

@[simp] theorem digitAt_clearedBuffer (i : Nat) : digitAt clearedBuffer i = 0 := by
  by_cases h : i < 128
  · simp [digitAt_of_lt _ h, clearedBuffer]
  · exact digitAt_of_le _ (by omega)

/-- All that `writeDigits` does: the digits of its range, and every other as before. -/
theorem digitAt_writeDigits (b : Buffer) (lo n : Nat) (f : Nat → Digit) (i : Nat) :
    digitAt (writeDigits b lo n f) i = if lo ≤ i ∧ i < lo + n ∧ i < 128 then f i else digitAt b i := by
  by_cases h : i < 128
  · simp only [digitAt_of_lt _ h, writeDigits, Vector.getElem_ofFn]
    by_cases h' : lo ≤ i ∧ i < lo + n
    · simp [h', h]
    · rw [if_neg h', if_neg (fun x => h' ⟨x.1, x.2.1⟩)]
  · rw [digitAt_of_le _ (by omega), if_neg (by omega), digitAt_of_le _ (by omega)]

/-- Buffers with the same 128 digits are equal. -/
theorem buffer_ext {a b : Buffer} (h : ∀ i < 128, digitAt a i = digitAt b i) : a = b := by
  apply Vector.ext
  intro i hi
  have := h i hi
  rwa [digitAt_of_lt _ hi, digitAt_of_lt _ hi] at this

/-- One digit written into a slot vector. -/
theorem digitAt_set (b : Buffer) (k i : Nat) (x : Digit) :
    digitAt (b.setIfInBounds k x) i = if k = i ∧ i < 128 then x else digitAt b i := by
  by_cases h : i < 128
  · rw [digitAt_of_lt _ h, digitAt_of_lt _ h, Vector.getElem_setIfInBounds]; simp [h]
  · rw [digitAt_of_le _ (by omega), if_neg (by omega), digitAt_of_le _ (by omega)]

/-- A window word shows its digits (10_state.md R55). -/
theorem windowDigit_windowWord (d : Nat → Digit) {j : Nat} (h : j < 8) : windowDigit (windowWord d) j = d j := by
  apply BitVec.eq_of_getLsbD_eq
  intro i hi
  simp only [windowDigit, windowWord, BitVec.getLsbD_extractLsb', BitVec.getLsbD_append]
  interval_cases j <;> interval_cases i <;> simp

/-- A word is the window onto its own digits. -/
theorem windowWord_windowDigit (v : Word) : windowWord (windowDigit v) = v := by
  apply BitVec.eq_of_getLsbD_eq
  intro i hi
  simp only [windowDigit, windowWord, BitVec.getLsbD_extractLsb', BitVec.getLsbD_append]
  interval_cases i <;> simp

/-- All that a write through the window does to a buffer's digits. -/
theorem digitAt_writeBufferWord (b : Buffer) (w : Nat) (v : Word) (i : Nat) :
    digitAt (writeBufferWord b w v) i =
      if 8 * w ≤ i ∧ i < 8 * w + 8 ∧ i < 128 then windowDigit v (i - 8 * w) else digitAt b i :=
  digitAt_writeDigits b (8 * w) 8 _ i

/-- The word read after a window write, at the same or another word of the buffer. -/
theorem bufferWord_writeBufferWord (b : Buffer) (w w' : Nat) (v : Word) (h : w < 16) :
    bufferWord (writeBufferWord b w v) w' = if w' = w then v else bufferWord b w' := by
  have key : ∀ j < 8, digitAt (writeBufferWord b w v) (8 * w' + j) =
      if w' = w then windowDigit v j else digitAt b (8 * w' + j) := by
    intro j hj
    rw [digitAt_writeBufferWord]
    by_cases e : w' = w
    · subst e
      rw [if_pos (by omega), if_pos rfl, Nat.add_sub_cancel_left]
    · rw [if_neg (by omega), if_neg e]
  have cong : ∀ d d' : Nat → Digit, (∀ j < 8, d j = d' j) → windowWord d = windowWord d' := by
    intro d d' hd
    simp only [windowWord, hd 0 (by omega), hd 1 (by omega), hd 2 (by omega), hd 3 (by omega), hd 4 (by omega),
      hd 5 (by omega), hd 6 (by omega), hd 7 (by omega)]
  unfold bufferWord
  rw [cong _ _ key]
  by_cases e : w' = w
  · simp only [e, if_true]; exact windowWord_windowDigit v
  · simp only [e, if_false]

end Sys2Proof.Machine
end

