-- ==== Sys2Proof/Laws/Bus.lean ====
section
/-! SUPPORT. What a host write can do, once over, and which register an offset names. -/

namespace Sys2Proof.Machine

/-! ## Offsets -/

theorem regAt_of_div (off : Offset) {n : Nat} (h : off.toNat / 4 = n) : regAt off = regOfWord n := by
  rw [regAt, h]

theorem regOfWord_bufA {w : Nat} (h : w < 16) : regOfWord (64 + w) = .bufA w := by
  interval_cases w <;> rfl

theorem regOfWord_bufB {w : Nat} (h : w < 16) : regOfWord (80 + w) = .bufB w := by
  interval_cases w <;> rfl

theorem regOfWord_reserved {n : Nat} (h : 21 ≤ n ∧ n < 64 ∨ 96 ≤ n) : regOfWord n = .reserved := by
  rw [regOfWord, if_neg (by omega), if_neg (by omega)]
  exact List.getD_eq_default _ _ (by simp [namedRegs]; omega)

/-- Which word of the window a register stands at: words below 21 by name, then the two windows. -/
theorem regOfWord_cases (n : Nat) :
    n < 21 ∨ (∃ w < 16, n = 64 + w ∧ regOfWord n = .bufA w) ∨ (∃ w < 16, n = 80 + w ∧ regOfWord n = .bufB w) ∨
      regOfWord n = .reserved := by
  by_cases h : n < 21
  · exact .inl h
  by_cases ha : 64 ≤ n ∧ n < 80
  · obtain ⟨w, rfl⟩ := Nat.exists_eq_add_of_le ha.1
    exact .inr (.inl ⟨w, by omega, rfl, regOfWord_bufA (by omega)⟩)
  by_cases hb : 80 ≤ n ∧ n < 96
  · obtain ⟨w, rfl⟩ := Nat.exists_eq_add_of_le hb.1
    exact .inr (.inr (.inl ⟨w, by omega, rfl, regOfWord_bufB (by omega)⟩))
  · exact .inr (.inr (.inr (regOfWord_reserved (by omega))))

/-- Bits 1:0 of an offset do not reach the word it names (20_memory.md R62). -/
theorem offset_word (off : Offset) : (off &&& 0xFFC#12).toNat / 4 = off.toNat / 4 := by
  have hx : off = BitVec.ofNat 12 off.toNat := by simp
  rw [BitVec.toNat_and, hx]
  have := off.isLt
  generalize off.toNat = n at *
  have key : n &&& 4092 = 4 * (n / 4) := by
    have h1 : n &&& 4092 = (n / 4 % 1024) * 4 := by
      apply Nat.eq_of_testBit_eq
      intro i
      rw [Nat.testBit_and, show (4092 : Nat) = (2 ^ 10 - 1) * 2 ^ 2 from rfl, show (4 : Nat) = 2 ^ 2 from rfl,
        Nat.testBit_mul_two_pow, Nat.testBit_mul_two_pow, show (1024 : Nat) = 2 ^ 10 from rfl, Nat.testBit_mod_two_pow,
        Nat.testBit_two_pow_sub_one, Nat.testBit_div_two_pow]
      by_cases hi : 2 ≤ i
      · simp [hi, Bool.and_comm]
      · simp [hi]
    rw [h1, Nat.mod_eq_of_lt (by omega), Nat.mul_comm]
  simp [Nat.mod_eq_of_lt this]
  omega

/-! ## Writes -/

theorem busy_iff (s : State) : s.busy = true ↔ s.phase ≠ .idle := by simp [State.busy]

theorem busy_eq_false_iff (s : State) : s.busy = false ↔ s.phase = .idle := by simp [State.busy]

/-- All that a guarded write performed while idle can change: the configuration fields and the buffers. -/
theorem storeGuarded_frame (r : Reg) (v : Word) (s : State) :
    { storeGuarded r v s with
      bord := s.bord, rend := s.rend, uw := s.uw, nmatch := s.nmatch, maxatt := s.maxatt, plen := s.plen,
      pat0 := s.pat0, pat1 := s.pat1, sentLo := s.sentLo, sentHi := s.sentHi, frmk := s.frmk, bufA := s.bufA,
      bufB := s.bufB } = s := by
  cases s; cases r <;> rfl

/-! What a guarded write never changes, field by field. -/

@[simp] theorem storeGuarded_flags (r : Reg) (v : Word) (s : State) : (storeGuarded r v s).flags = s.flags := by
  cases r <;> simp only [storeGuarded]
@[simp] theorem storeGuarded_code (r : Reg) (v : Word) (s : State) : (storeGuarded r v s).code = s.code := by
  cases r <;> simp only [storeGuarded]
@[simp] theorem storeGuarded_lastop (r : Reg) (v : Word) (s : State) : (storeGuarded r v s).lastop = s.lastop := by
  cases r <;> simp only [storeGuarded]
@[simp] theorem storeGuarded_phase (r : Reg) (v : Word) (s : State) : (storeGuarded r v s).phase = s.phase := by
  cases r <;> simp only [storeGuarded]
@[simp] theorem storeGuarded_ien (r : Reg) (v : Word) (s : State) : (storeGuarded r v s).ien = s.ien := by
  cases r <;> simp only [storeGuarded]
@[simp] theorem storeGuarded_mcnt (r : Reg) (v : Word) (s : State) : (storeGuarded r v s).mcnt = s.mcnt := by
  cases r <;> simp only [storeGuarded]
@[simp] theorem storeGuarded_acnt (r : Reg) (v : Word) (s : State) : (storeGuarded r v s).acnt = s.acnt := by
  cases r <;> simp only [storeGuarded]
@[simp] theorem storeGuarded_mpos (r : Reg) (v : Word) (s : State) : (storeGuarded r v s).mpos = s.mpos := by
  cases r <;> simp only [storeGuarded]
@[simp] theorem storeGuarded_lastLo (r : Reg) (v : Word) (s : State) : (storeGuarded r v s).lastLo = s.lastLo := by
  cases r <;> simp only [storeGuarded]
@[simp] theorem storeGuarded_lastHi (r : Reg) (v : Word) (s : State) : (storeGuarded r v s).lastHi = s.lastHi := by
  cases r <;> simp only [storeGuarded]
@[simp] theorem storeGuarded_lastcnt (r : Reg) (v : Word) (s : State) : (storeGuarded r v s).lastcnt = s.lastcnt := by
  cases r <;> simp only [storeGuarded]
@[simp] theorem storeGuarded_res (r : Reg) (v : Word) (s : State) : (storeGuarded r v s).res = s.res := by
  cases r <;> simp only [storeGuarded]
@[simp] theorem storeGuarded_ccnt (r : Reg) (v : Word) (s : State) : (storeGuarded r v s).ccnt = s.ccnt := by
  cases r <;> simp only [storeGuarded]
@[simp] theorem storeGuarded_xcmd (r : Reg) (v : Word) (s : State) : (storeGuarded r v s).xcmd = s.xcmd := by
  cases r <;> simp only [storeGuarded]
@[simp] theorem storeGuarded_resetPin (r : Reg) (v : Word) (s : State) : (storeGuarded r v s).resetPin = s.resetPin := by
  cases r <;> simp only [storeGuarded]
@[simp] theorem storeGuarded_inputs (r : Reg) (v : Word) (s : State) : (storeGuarded r v s).inputs = s.inputs := by
  cases r <;> simp only [storeGuarded]
@[simp] theorem storeGuarded_readData (r : Reg) (v : Word) (s : State) : (storeGuarded r v s).readData = s.readData := by
  cases r <;> simp only [storeGuarded]

/-- A guarded write, by whether a command is in progress (20_memory.md R65). -/
theorem guardedWrite_cases (r : Reg) (v : Word) (s : State) :
    (s.phase ≠ .idle ∧ guardedWrite r v s = busyWriteError s) ∨
      (s.phase = .idle ∧ guardedWrite r v s = storeGuarded r v s) := by
  unfold guardedWrite
  by_cases h : s.busy = true
  · exact .inl ⟨(busy_iff s).1 h, if_pos h⟩
  · exact .inr ⟨(busy_eq_false_iff s).1 (by simpa using h), if_neg h⟩

/-- A command write, by whether a command is in progress (40_command_control.md R100, R101, R105). -/
theorem commandWrite_cases (w : Word) (s : State) :
    (s.phase = .idle ∧ commandWrite w s = accept w s) ∨
      (s.phase ≠ .idle ∧ w = 0x00000003#32 ∧ commandWrite w s = abortInProgress s) ∨
      (s.phase ≠ .idle ∧ w ≠ 0x00000003#32 ∧ commandWrite w s = busyWriteError s) := by
  unfold commandWrite
  by_cases h : s.busy = true
  · by_cases hw : w = 0x00000003#32
    · exact .inr (.inl ⟨(busy_iff s).1 h, hw, by rw [if_pos h, if_pos hw]⟩)
    · exact .inr (.inr ⟨(busy_iff s).1 h, hw, by rw [if_pos h, if_neg hw]⟩)
  · exact .inl ⟨(busy_eq_false_iff s).1 (by simpa using h), if_neg h⟩

theorem word_of_ctrl {n : Nat} (h : regOfWord n = .ctrl) : n = 1 := by
  rcases regOfWord_cases n with hn | ⟨w, -, -, e⟩ | ⟨w, -, -, e⟩ | e <;> [skip; cases e ▸ h; cases e ▸ h; cases e ▸ h]
  interval_cases n <;> first | rfl | cases h

theorem word_of_status {n : Nat} (h : regOfWord n = .status) : n = 2 := by
  rcases regOfWord_cases n with hn | ⟨w, -, -, e⟩ | ⟨w, -, -, e⟩ | e <;> [skip; cases e ▸ h; cases e ▸ h; cases e ▸ h]
  interval_cases n <;> first | rfl | cases h

theorem word_of_ien {n : Nat} (h : regOfWord n = .ien) : n = 3 := by
  rcases regOfWord_cases n with hn | ⟨w, -, -, e⟩ | ⟨w, -, -, e⟩ | e <;> [skip; cases e ▸ h; cases e ▸ h; cases e ▸ h]
  interval_cases n <;> first | rfl | cases h

theorem word_of_cmd {n : Nat} (h : regOfWord n = .cmd) : n = 4 := by
  rcases regOfWord_cases n with hn | ⟨w, -, -, e⟩ | ⟨w, -, -, e⟩ | e <;> [skip; cases e ▸ h; cases e ▸ h; cases e ▸ h]
  interval_cases n <;> first | rfl | cases h

/-- All that a host write can do. -/
theorem busWrite_cases (off : Offset) (v : Word) (s : State) :
    busWrite off v s = s ∨
    (off.toNat / 4 = 1 ∧ v.getLsbD 31 = true ∧ busWrite off v s = resetAction s) ∨
    (s.phase ≠ .idle ∧ busWrite off v s = busyWriteError s) ∨
    (s.phase = .idle ∧ busWrite off v s = storeGuarded (regAt off) v s) ∨
    (off.toNat / 4 = 2 ∧ busWrite off v s = { s with flags := s.flags.writeOneToClear v }) ∨
    (off.toNat / 4 = 3 ∧ busWrite off v s = { s with ien := Flags.ofWord v }) ∨
    (off.toNat / 4 = 4 ∧ s.phase = .idle ∧ busWrite off v s = accept v s) ∨
    (off.toNat / 4 = 4 ∧ s.phase ≠ .idle ∧ v = 0x00000003#32 ∧ busWrite off v s = abortInProgress s) := by
  have guarded : busWrite off v s = guardedWrite (regAt off) v s →
      (s.phase ≠ .idle ∧ busWrite off v s = busyWriteError s) ∨
      (s.phase = .idle ∧ busWrite off v s = storeGuarded (regAt off) v s) := by
    intro h
    rw [h]
    exact guardedWrite_cases (regAt off) v s
  have hw : busWrite off v s = writeReg s (regAt off) v := rfl
  cases hr : regAt off with
  | ctrl =>
    by_cases h31 : v.getLsbD 31 = true
    · have : busWrite off v s = resetAction s := by rw [hw, hr]; exact if_pos h31
      exact .inr (.inl ⟨word_of_ctrl hr, h31, this⟩)
    · have := guarded (by rw [hw, hr]; exact if_neg h31)
      rw [hr] at this
      rcases this with h | h
      · exact .inr (.inr (.inl h))
      · exact .inr (.inr (.inr (.inl h)))
  | status => exact .inr (.inr (.inr (.inr (.inl ⟨word_of_status hr, by rw [hw, hr]; rfl⟩))))
  | ien => exact .inr (.inr (.inr (.inr (.inr (.inl ⟨word_of_ien hr, by rw [hw, hr]; rfl⟩)))))
  | cmd =>
    have hc : busWrite off v s = commandWrite v s := by rw [hw, hr]; rfl
    rw [hc]
    rcases commandWrite_cases v s with ⟨h, e⟩ | ⟨h, h3, e⟩ | ⟨h, -, e⟩
    · exact .inr (.inr (.inr (.inr (.inr (.inr (.inl ⟨word_of_cmd hr, h, e⟩))))))
    · exact .inr (.inr (.inr (.inr (.inr (.inr (.inr ⟨word_of_cmd hr, h, h3, e⟩))))))
    · exact .inr (.inr (.inl ⟨h, e⟩))
  | id | mcnt | acnt | mpos | lastLo | lastHi | lastcnt | res | ccnt | reserved => exact .inl (by rw [hw, hr]; rfl)
  | nmatch | maxatt | plen | pat0 | pat1 | sentLo | sentHi | frmk | bufA w | bufB w =>
    have := guarded (by rw [hw, hr]; rfl)
    rw [hr] at this
    rcases this with h | h
    · exact .inr (.inr (.inl h))
    · exact .inr (.inr (.inr (.inl h)))

end Sys2Proof.Machine
end

