-- ==== Sys2Proof/Laws/Encoding.lean ====
section
/-! SUPPORT. The fields of a CW word, read back (30_encoding.md R85 to R90). -/

namespace Sys2Proof

variable (fb fa : BitVec 7) (d s : BitVec 1) (op : Digit)

/-- Every bit of a CW word (R85). -/
theorem cwWord_getLsbD (i : Nat) :
    (cwWord fb fa d s op).getLsbD i =
      if i < 4 then op.getLsbD i else if i < 5 then s.getLsbD (i - 4) else if i < 6 then d.getLsbD (i - 5)
      else if i < 8 then false else if i < 15 then fa.getLsbD (i - 8) else if i < 16 then false
      else if i < 23 then fb.getLsbD (i - 16) else false := by
  simp only [cwWord, BitVec.getLsbD_append, BitVec.getLsbD_zero]
  simp only [Nat.sub_sub, Nat.reduceAdd,
    show (i - 4 < 1) = (i < 5) from propext (by omega), show (i - 5 < 1) = (i < 6) from propext (by omega),
    show (i - 6 < 2) = (i < 8) from propext (by omega), show (i - 8 < 7) = (i < 15) from propext (by omega),
    show (i - 15 < 1) = (i < 16) from propext (by omega), show (i - 16 < 7) = (i < 23) from propext (by omega)]

@[simp] theorem opField_cwWord : opField (cwWord fb fa d s op) = op := by
  apply BitVec.eq_of_getLsbD_eq
  intro i hi
  rw [opField, BitVec.getLsbD_extractLsb', cwWord_getLsbD]
  simp [hi]

@[simp] theorem faField_cwWord : faField (cwWord fb fa d s op) = fa.toNat := by
  rw [faField]
  congr 1
  apply BitVec.eq_of_getLsbD_eq
  intro i hi
  rw [BitVec.getLsbD_extractLsb', cwWord_getLsbD]
  rw [if_neg (by omega), if_neg (by omega), if_neg (by omega), if_neg (by omega), if_pos (by omega)]
  simp [hi]

@[simp] theorem fbField_cwWord : fbField (cwWord fb fa d s op) = fb.toNat := by
  rw [fbField]
  congr 1
  apply BitVec.eq_of_getLsbD_eq
  intro i hi
  rw [BitVec.getLsbD_extractLsb', cwWord_getLsbD]
  rw [if_neg (by omega), if_neg (by omega), if_neg (by omega), if_neg (by omega), if_neg (by omega),
    if_neg (by omega), if_pos (by omega)]
  simp [hi]

@[simp] theorem srcField_cwWord (x : BufSel) : srcField (cwWord fb fa d x.bit op) = x := by
  rw [srcField, cwWord_getLsbD]; cases x <;> rfl

@[simp] theorem dstField_cwWord (x : BufSel) : dstField (cwWord fb fa x.bit s op) = x := by
  rw [dstField, cwWord_getLsbD]; cases x <;> rfl

end Sys2Proof
end

