-- ==== Sys2Proof/Laws/PerInstr.lean ====
section
/-! SUPPORT. Per command: its encoding stands under its own row of the opcode map (30_encoding.md R89 to R91). -/

namespace Sys2Proof.Laws.EncodeFits

/-- The row of the opcode map that a command belongs to (R91). -/
def rowOf : Instr → OpcodeRow
  | .nop => rowNop
  | .scana => rowScana
  | .scans => rowScans
  | .abort => rowAbort
  | .reord _ _ _ _ => rowReord
  | .remap _ _ _ _ => rowRemap
  | .cvt _ _ => rowCvt
  | .clr _ => rowClr

/-- The command's word has 0 in every bit its row fixes to 0, and its row's OP. -/
def Statement (i : Instr) : Prop := (rowOf i).fits (encode i) = true

/-- A word fits a row when it agrees with the row's pattern on every bit of the mask. -/
theorem fits_of_bits (r : OpcodeRow) (w : Word)
    (h : ∀ i < 32, (w.getLsbD i && r.mask.getLsbD i) = r.pattern.getLsbD i) : r.fits w = true := by
  rw [OpcodeRow.fits, beq_iff_eq]
  apply BitVec.eq_of_getLsbD_eq
  intro i hi
  rw [BitVec.getLsbD_and]
  exact h i hi

theorem nop : Statement .nop := by unfold Statement; decide
theorem scana : Statement .scana := by unfold Statement; decide
theorem scans : Statement .scans := by unfold Statement; decide
theorem abort : Statement .abort := by unfold Statement; decide

theorem reord (src dst : BufSel) (hi lo : Nat) : Statement (.reord src dst hi lo) := by
  refine fits_of_bits _ _ fun i h => ?_
  rw [encode, cwWord_getLsbD]
  interval_cases i <;> simp [rowOf, rowReord]

theorem remap (src dst : BufSel) (base groups : Nat) : Statement (.remap src dst base groups) := by
  refine fits_of_bits _ _ fun i h => ?_
  rw [encode, cwWord_getLsbD]
  interval_cases i <;> simp [rowOf, rowRemap]

theorem cvt (src : BufSel) (off : Nat) : Statement (.cvt src off) := by
  refine fits_of_bits _ _ fun i h => ?_
  rw [encode, cwWord_getLsbD]
  interval_cases i <;> simp [rowOf, rowCvt]

theorem clr (src : BufSel) : Statement (.clr src) := by
  refine fits_of_bits _ _ fun i h => ?_
  rw [encode, cwWord_getLsbD]
  interval_cases i <;> simp [rowOf, rowClr]

end Sys2Proof.Laws.EncodeFits
end

