-- ==== Sys2Proof/Laws/Scan.lean ====
section
/-! SUPPORT. What a unit step can do, once over, and the scans' configuration checks in the spec's terms. -/

namespace Sys2Proof.Machine

theorem legalScana_iff (s : State) : legalScana s = true ↔ ScanaConfigured s := by
  simp only [legalScana, legalReadWidth, ScanaConfigured, Bool.and_eq_true, decide_eq_true_eq]
  tauto

theorem legalScans_iff (s : State) : legalScans s = true ↔ ScansConfigured s := by
  simp only [legalScans, legalReadWidth, ScansConfigured, Bool.and_eq_true, decide_eq_true_eq]
  tauto

theorem uReq_iff (s : State) : uReq s = true ↔ s.phase = .scana ∨ s.phase = .hunt ∨ s.phase = .capture := by
  unfold uReq; cases s.phase <;> simp

/-- LAST is the whole value recorded. -/
theorem recordUnit_last (data : UnitValue) (c : BitVec 4) (s : State) :
    (recordUnit data c s).last = assemble data c.toNat s.bord := by
  have : ∀ v : BitVec 64, v.extractLsb' 32 32 ++ v.extractLsb' 0 32 = v := by
    intro v
    apply BitVec.eq_of_getLsbD_eq
    intro i hi
    simp only [BitVec.getLsbD_append, BitVec.getLsbD_extractLsb']
    split
    · simp; omega
    · rw [show 32 + (i - 32) = i by omega]; simp; omega
  exact this _

theorem scanaCap_cases (s : State) :
    (s.acnt = s.maxatt ∧ scanaCap s = finish .discTimeout s) ∨ (s.acnt ≠ s.maxatt ∧ scanaCap s = s) := by
  unfold scanaCap; split <;> simp_all

theorem scansCap_cases (s : State) :
    (s.acnt = s.maxatt ∧ s.phase = .hunt ∧ scansCap s = finish .sentTimeout s) ∨
    (s.acnt = s.maxatt ∧ s.phase ≠ .hunt ∧ scansCap s = finish .frameTimeout s) ∨
    (s.acnt ≠ s.maxatt ∧ scansCap s = s) := by
  unfold scansCap; split <;> [split; skip] <;> simp_all

/-- A matching unit, counted at position `p` (41_pattern_matcher.md R128). -/
def countMatch (p : Nat) (s : State) : State := { s with mcnt := s.mcnt + 1, mpos := BitVec.ofNat 4 p }

/-- All that SCANA's unit step can do after the prologue (R128, R129). -/
theorem scanaUnit_cases (s : State) :
    (addressMatch s = none ∧ scanaUnit s = scanaCap s) ∨
    ∃ p, addressMatch s = some p ∧
      ((s.mcnt + 1 = s.nmatch ∧ scanaUnit s = finish .found (countMatch p s)) ∨
       (s.mcnt + 1 ≠ s.nmatch ∧ scanaUnit s = scanaCap (countMatch p s))) := by
  unfold scanaUnit
  cases h : addressMatch s with
  | none => exact .inl ⟨rfl, rfl⟩
  | some p =>
    refine .inr ⟨p, rfl, ?_⟩
    by_cases hm : s.mcnt + 1 = s.nmatch
    · exact .inl ⟨hm, if_pos hm⟩
    · exact .inr ⟨hm, if_neg hm⟩

/-- Buffer A cleared and the capture begun (R132). -/
def beginCapture (s : State) : State := { s with bufA := clearedBuffer, ccnt := 0, phase := .capture }

/-- All that SCANS's unit step in HUNT can do after the prologue (R132). -/
theorem huntUnit_cases (s : State) :
    ((s.lastcnt ≠ 0 ∧ s.last = s.sent) ∧ huntUnit s = scansCap (beginCapture s)) ∨
    (¬ (s.lastcnt ≠ 0 ∧ s.last = s.sent) ∧ huntUnit s = scansCap s) := by
  unfold huntUnit
  by_cases h : s.lastcnt ≠ 0 ∧ s.last = s.sent
  · exact .inl ⟨h, if_pos h⟩
  · exact .inr ⟨h, if_neg h⟩

/-- A unit captured into the next 16 digits of buffer A (R133). -/
def captureOne (s : State) : State :=
  { s with
    bufA := writeDigits s.bufA (16 * s.ccnt.toNat) 16 fun k => textDigit s.last (k - 16 * s.ccnt.toNat)
    ccnt := s.ccnt + 1 }

/-- All that SCANS's unit step in CAPTURE can do after the prologue (R133). -/
theorem captureUnit_cases (s : State) :
    (s.lastcnt = 0 ∧ captureUnit s = scansCap s) ∨
    (s.lastcnt ≠ 0 ∧ s.ccnt + 1 = s.frmk ∧ captureUnit s = finish .frameReady (captureOne s)) ∨
    (s.lastcnt ≠ 0 ∧ s.ccnt + 1 ≠ s.frmk ∧ captureUnit s = scansCap (captureOne s)) := by
  unfold captureUnit
  by_cases h : s.lastcnt = 0
  · exact .inl ⟨h, if_pos h⟩
  · rw [if_neg h]
    by_cases hk : s.ccnt + 1 = s.frmk
    · exact .inr (.inl ⟨h, hk, if_pos hk⟩)
    · exact .inr (.inr ⟨h, hk, if_neg hk⟩)

/-- All that a unit step can do (R126). -/
theorem unitStep_cases (data : UnitValue) (c : BitVec 4) (s : State) :
    (uReq s = false ∧ unitStep data c s = s) ∨
    (uReq s = true ∧ s.uw.toNat < c.toNat ∧ unitStep data c s = finish .unit { s with acnt := s.acnt + 1 }) ∨
    (s.phase = .scana ∧ c.toNat ≤ s.uw.toNat ∧ unitStep data c s = scanaUnit (recordUnit data c s)) ∨
    (s.phase = .hunt ∧ c.toNat ≤ s.uw.toNat ∧ unitStep data c s = huntUnit (recordUnit data c s)) ∨
    (s.phase = .capture ∧ c.toNat ≤ s.uw.toNat ∧ unitStep data c s = captureUnit (recordUnit data c s)) := by
  unfold unitStep
  cases hp : s.phase <;> by_cases h : s.uw.toNat < c.toNat <;> simp [uReq, hp, h] <;> omega

end Sys2Proof.Machine
end

