-- ==== Sys2Proof/Laws/Step.lean ====
section
/-! SUPPORT. What a dispatch and a step can do, once over. -/

namespace Sys2Proof.Machine

/-- All that the dispatch of a command can do: a completion of the state as it was; a buffer written, or RES written,
and an OK completion; or a scan begun. -/
theorem exec_cases (i : Instr) (s : State) :
    ∃ t, exec i s = .next t ∧
      ((∃ c, t = finish c s) ∨
       (∃ d x, t = finish .ok (s.setBuf d x)) ∨
       (∃ src off r, i = .cvt src off ∧ t = finish .ok { s with res := r }) ∨
       (i = .scana ∧ ScanaConfigured s ∧ t = { s with mcnt := 0, acnt := 0, mpos := 0, phase := .scana }) ∨
       (i = .scans ∧ ScansConfigured s ∧ t = { s with acnt := 0, ccnt := 0, phase := .hunt })) := by
  cases i with
  | nop => exact ⟨_, rfl, .inl ⟨_, rfl⟩⟩
  | abort => exact ⟨_, rfl, .inl ⟨_, rfl⟩⟩
  | clr src => exact ⟨_, rfl, .inr (.inl ⟨_, _, rfl⟩)⟩
  | scana =>
    by_cases h : legalScana s = true
    · exact ⟨_, if_pos h, .inr (.inr (.inr (.inl ⟨rfl, (legalScana_iff s).1 h, rfl⟩)))⟩
    · exact ⟨_, if_neg h, .inl ⟨_, rfl⟩⟩
  | scans =>
    by_cases h : legalScans s = true
    · exact ⟨_, if_pos h, .inr (.inr (.inr (.inr ⟨rfl, (legalScans_iff s).1 h, rfl⟩)))⟩
    · exact ⟨_, if_neg h, .inl ⟨_, rfl⟩⟩
  | reord src dst hi lo =>
    by_cases h : legalReord hi lo = true
    · exact ⟨_, if_pos h, .inr (.inl ⟨_, _, rfl⟩)⟩
    · exact ⟨_, if_neg h, .inl ⟨_, rfl⟩⟩
  | remap src dst base groups =>
    by_cases h : legalRemap base groups = true
    · exact ⟨_, if_pos h, .inr (.inl ⟨_, _, rfl⟩)⟩
    · exact ⟨_, if_neg h, .inl ⟨_, rfl⟩⟩
  | cvt src off =>
    by_cases h : legalCvt off = true
    · exact ⟨_, if_pos h, .inr (.inr (.inl ⟨_, _, _, rfl, rfl⟩))⟩
    · exact ⟨_, if_neg h, .inl ⟨_, rfl⟩⟩

/-- The step of each kind of event, with the reset input released. -/
theorem step_hostRead {s : State} {off : Offset} (h : s.meets (.hostRead off)) :
    step s = .next { s.rest with readData := some (busRead off s.rest) } := by
  obtain ⟨h0, h⟩ := h
  cases hi : s.inputs with
  | nil => simp [State.event, hi] at h
  | cons e l =>
    obtain rfl : e = .hostRead off := by simpa [State.event, hi] using h
    simp [step, takeTurn, hi, takeInput, h0, agentTurn, State.rest]

theorem step_hostWrite {s : State} {off : Offset} {v : Word} (h : s.meets (.hostWrite off v)) :
    step s = .next (busWrite off v s.rest) := by
  obtain ⟨h0, h⟩ := h
  cases hi : s.inputs with
  | nil => simp [State.event, hi] at h
  | cons e l =>
    obtain rfl : e = .hostWrite off v := by simpa [State.event, hi] using h
    simp [step, takeTurn, hi, takeInput, h0, agentTurn, State.rest]

theorem step_unitOffer {s : State} {data : UnitValue} {c : BitVec 4} (h : s.meets (.unitOffer data c)) :
    step s = .next (unitStep data c s.rest) := by
  obtain ⟨h0, h⟩ := h
  cases hi : s.inputs with
  | nil => simp [State.event, hi] at h
  | cons e l =>
    obtain rfl : e = .unitOffer data c := by simpa [State.event, hi] using h
    simp [step, takeTurn, hi, takeInput, h0, agentTurn, State.rest]

theorem step_sfsMoves {s : State} (h : s.sfsMoves) : step s = sfsTurn s.rest := by
  obtain ⟨h0, h⟩ := h
  cases hi : s.inputs with
  | nil =>
    have : s.rest = s := by cases s; simp_all [State.rest]
    rw [this]; simp [step, takeTurn, hi]
  | cons e l =>
    obtain rfl : e = .sfsTurn := by simpa [State.event, hi] using h
    simp [step, takeTurn, hi, takeInput, h0, agentTurn, State.rest]

theorem step_resetLevel {s : State} {b : Bool} (h : s.event = some (.resetLevel b)) :
    step s = .next (driveReset b s.rest) := by
  cases hi : s.inputs with
  | nil => simp [State.event, hi] at h
  | cons e l =>
    obtain rfl : e = .resetLevel b := by simpa [State.event, hi] using h
    simp [step, takeTurn, hi, takeInput, State.rest]

theorem step_held {s : State} (hr : s.resetPin = true) (h : ∀ b, s.event ≠ some (.resetLevel b)) :
    step s = .next s.rest := by
  cases hi : s.inputs with
  | nil =>
    have : s.rest = s := by cases s; simp_all [State.rest]
    rw [this]; simp [step, takeTurn, hi, sfsTurn, hr]
  | cons e l =>
    have he : ∀ b, e ≠ .resetLevel b := by simpa [State.event, hi] using h
    cases e <;> simp_all [step, takeTurn, takeInput, State.rest]

/-- All that a step can be. -/
theorem step_cases (s : State) :
    (step s = .next s.rest) ∨
    (s.sfsMoves ∧ s.phase = .pending ∧ ∃ i, decode s.xcmd = .ok i ∧ step s = exec i s.rest) ∨
    (s.sfsMoves ∧ s.phase = .pending ∧ ∃ e, decode s.xcmd = .error e ∧ step s = .next (finish .illop s.rest)) ∨
    (∃ b, s.event = some (.resetLevel b) ∧ step s = .next (driveReset b s.rest)) ∨
    (∃ off, s.meets (.hostRead off) ∧ step s = .next { s.rest with readData := some (busRead off s.rest) }) ∨
    (∃ off v, s.meets (.hostWrite off v) ∧ step s = .next (busWrite off v s.rest)) ∨
    (∃ data c, s.meets (.unitOffer data c) ∧ step s = .next (unitStep data c s.rest)) := by
  have turn : s.sfsMoves → (step s = .next s.rest) ∨
      (s.sfsMoves ∧ s.phase = .pending ∧ ∃ i, decode s.xcmd = .ok i ∧ step s = exec i s.rest) ∨
      (s.sfsMoves ∧ s.phase = .pending ∧ ∃ e, decode s.xcmd = .error e ∧ step s = .next (finish .illop s.rest)) := by
    intro h
    have hs := step_sfsMoves h
    rw [hs]
    by_cases hp : s.phase = .pending
    · have : sfsTurn s.rest = dispatchStep s.rest := if_pos ⟨hp, h.1⟩
      rw [this, dispatchStep, rest_xcmd]
      cases hd : decode s.xcmd with
      | ok i => exact .inr (.inl ⟨h, hp, i, rfl, rfl⟩)
      | error e => exact .inr (.inr ⟨h, hp, e, rfl, rfl⟩)
    · exact .inl (if_neg (fun x => hp x.1))
  by_cases hr : s.resetPin = true
  · by_cases h : ∃ b, s.event = some (.resetLevel b)
    · obtain ⟨b, hb⟩ := h
      exact .inr (.inr (.inr (.inl ⟨b, hb, step_resetLevel hb⟩)))
    · exact .inl (step_held hr (by simpa using h))
  · have hr : s.resetPin = false := by simpa using hr
    cases he : s.event with
    | none =>
      rcases turn ⟨hr, .inl he⟩ with h | h | h
      · exact .inl h
      · exact .inr (.inl h)
      · exact .inr (.inr (.inl h))
    | some e =>
      cases e with
      | hostRead off => exact .inr (.inr (.inr (.inr (.inl ⟨off, ⟨hr, he⟩, step_hostRead ⟨hr, he⟩⟩))))
      | hostWrite off v => exact .inr (.inr (.inr (.inr (.inr (.inl ⟨off, v, ⟨hr, he⟩, step_hostWrite ⟨hr, he⟩⟩)))))
      | unitOffer d c => exact .inr (.inr (.inr (.inr (.inr (.inr ⟨d, c, ⟨hr, he⟩, step_unitOffer ⟨hr, he⟩⟩)))))
      | sfsTurn =>
        rcases turn ⟨hr, .inr he⟩ with h | h | h
        · exact .inl h
        · exact .inr (.inl h)
        · exact .inr (.inr (.inl h))
      | resetLevel b => exact .inr (.inr (.inr (.inl ⟨b, rfl, step_resetLevel he⟩)))

end Sys2Proof.Machine
end

