-- ==== Sys2Proof/Tests/Slice0.lean ====
section
/-! SUPPORT. Tests: the WellFormed smoke, words decoded, one-step tests with the results of 95_test_vectors.md, and for
every obligation with hypotheses a concrete state and operands that meet them together (`witness_<obligation>`). -/

open Sys2Proof Sys2Proof.Machine

namespace Sys2Proof.Tests

/-! ## WellFormed refuses an operand that does not fit its field (30_encoding.md R95) -/

theorem test_reord_hi_must_fit : (Instr.reord .a .b 128 0).wellFormed = false := by decide
theorem test_reord_lo_must_fit : (Instr.reord .a .b 9 128).wellFormed = false := by decide
theorem test_remap_base_must_fit : (Instr.remap .a .b 128 1).wellFormed = false := by decide
theorem test_remap_groups_must_fit : (Instr.remap .a .b 0 128).wellFormed = false := by decide
theorem test_cvt_offset_must_fit : (Instr.cvt .b 128).wellFormed = false := by decide
theorem test_largest_operands_fit : (Instr.reord .a .b 127 127).wellFormed = true := by decide

/-! ## Words of 30_encoding.md section 5 and 95_test_vectors.md section 2.1, decoded -/

theorem test_decode_nop : decode 0x00000000#32 = .ok .nop := by decide
theorem test_decode_scana : decode 0x00000001#32 = .ok .scana := by decide
theorem test_decode_scans : decode 0x00000002#32 = .ok .scans := by decide
theorem test_decode_abort : decode 0x00000003#32 = .ok .abort := by decide
/-- `0x4 | s<<4 | d<<5 | lo<<8 | hi<<16`: fields 00000000 0 0001011 0 0000100 00 1 0 0100. -/
theorem test_decode_reord : decode 0b00000000000010110000010000100100#32 = .ok (.reord .a .b 11 4) := by decide
theorem test_decode_reord_all_ones : decode 0x007F7F34#32 = .ok (.reord .b .b 127 127) := by decide
/-- `0x5 | s<<4 | d<<5 | base<<8 | g<<16`: fields 00000000 0 0001010 0 0001000 00 0 0 0101. -/
theorem test_decode_remap : decode 0b00000000000010100000100000000101#32 = .ok (.remap .a .a 8 10) := by decide
theorem test_decode_cvt : decode 0x00007C06#32 = .ok (.cvt .a 124) := by decide
theorem test_decode_clr : decode 0x00000017#32 = .ok (.clr .b) := by decide
theorem test_decode_reserved_opcode : decode 0x0000000F#32 = .error (.reservedOpcode 15) := by decide
theorem test_decode_unused_field : decode 0x00010006#32 = .error (.nonzeroFixedBits 6) := by decide
theorem test_decode_reserved_bit : decode 0x00800004#32 = .error (.nonzeroFixedBits 4) := by decide
/-- The examples of R95, written by the encoder. -/
theorem test_encode_examples : (encode (.reord .a .b 15 0), encode (.remap .b .b 0 3), encode (.cvt .b 0), encode (.clr .a)) =
    (0x000F0024#32, 0x00030035#32, 0x00000016#32, 0x00000007#32) := by decide
theorem test_table_word : decodeTableWord 32 0x00090024 = some (.reord .a .b 9 0) := by decide

/-! ## One-step tests -/

/-- What `f` reads of the state after one step; `d` where the step gives no next state. -/
def after {α : Type} (d : α) (f : State → α) (s : State) : α :=
  match step s with
  | .next t => f t
  | .fault _ => d
  | .refused _ => d

/-- A buffer that starts with the 16 digits of `v`, most significant first, and is 0 from there on. -/
def bufferOf (v : UnitValue) : Buffer := writeDigits clearedBuffer 0 16 (textDigit v)

/-- The first 16 digits of a buffer as one value. -/
def firstDigits (b : Buffer) : UnitValue := bufferWord b 0 ++ bufferWord b 1

/-- The state right after reset, with the events `es` to come. -/
def idle (es : List Input) : State := { State.reset with inputs := es }

/-- A SCANA for "BEEF", N = 2, MAX = 5, with two attempts and one match behind it (program P1). -/
def scanning (es : List Input) : State :=
  { State.reset with
    phase := .scana, lastop := 1, xcmd := 1, nmatch := 2, maxatt := 5, plen := 4, pat0 := 0xBEEF0000#32, mcnt := 1, acnt := 3
    mpos := 12, inputs := es }

/-- A SCANS for the sentinel 0xAA, K = 1, MAX = 2, at its start (95_test_vectors.md section 2.4). -/
def hunting (es : List Input) : State :=
  { State.reset with phase := .hunt, lastop := 2, xcmd := 2, maxatt := 2, frmk := 1, sentLo := 0xAA#32, inputs := es }

/-- The same, with the sentinel seen. -/
def capturing (es : List Input) : State :=
  { hunting es with phase := .capture, acnt := 1, lastLo := 0xAA#32, lastcnt := 1 }

/-- Section 2.2, `run nop` from reset. -/
theorem test_nop : after 0 statusWord (State.reset.withFetchWord 32 0x00000000) = 0x00000002#32 := by decide +kernel

/-- Section 2.2, `run abort` from reset. -/
theorem test_abort_idle : after 0 statusWord (State.reset.withFetchWord 32 0x00000003) = 0x00003002#32 := by
  decide +kernel

/-- Section 2.2, a pending REORD aborted before its dispatch. -/
theorem test_abort_pending :
    after (0, false) (fun t => (statusWord t, digitAt t.bufB 0 == 0))
      { accept 0x00030024#32 State.reset with inputs := [.hostWrite 0x010#12 0x00000003#32] } = (0x00004302#32, true) := by
  decide +kernel

/-- Program P1, the dispatch: STATUS 0x00021001, counters cleared. -/
theorem test_scana_start :
    after (0, 9, 9, 9) (fun t => (statusWord t, t.mcnt, t.acnt, t.mpos))
      ({ scanning [] with phase := .idle }.withFetchWord 32 0x00000001) = (0x00021001#32, 0, 0, 0) := by
  decide +kernel

/-- Program P1, the last unit: the match at digit 10 is the second of two, FOUND. -/
theorem test_scana_found :
    after (0, 0, 0, 0) (fun t => (statusWord t, t.mcnt, t.acnt, t.mpos))
      (scanning [.unitOffer 0x0605040302BEEF01#64 8]) = (0x00001106#32, 2, 4, 10) := by
  decide +kernel

/-- Section 2.4, the sentinel on the first attempt: buffer A is cleared and the capture begins. -/
theorem test_scans_sentinel :
    after (.idle, 9, 1) (fun t => (t.phase, t.acnt, firstDigits t.bufA))
      { hunting [.unitOffer 0xAA#64 1] with bufA := bufferOf 0x0123456789ABCDEF#64 } = (.capture, 1, 0) := by
  decide +kernel

/-- Section 2.4, the K-th unit on the last attempt: FRAME_READY, not FRAME_TIMEOUT, STATUS 0x0000224A. -/
theorem test_scans_frame :
    after (0, 0) (fun t => (statusWord t, firstDigits t.bufA))
      { capturing [.unitOffer 0x55#64 1] with flags := { Flags.none with short := true } } =
        (0x0000224A#32, 0x0000000000000055#64) := by
  decide +kernel

/-- E1: "0102030405" over (9, 0) gives "0504030201", STATUS 0x00004002. -/
theorem test_reord :
    after (0, 0) (fun t => (statusWord t, firstDigits t.bufB))
      ({ State.reset with bufA := bufferOf 0x0102030405000000#64 }.withFetchWord 32 0x00090024) =
        (0x00004002#32, 0x0504030201000000#64) := by
  decide +kernel

/-- Section 2.5, in place: "0123456789ABCDEF" over (15, 0). -/
theorem test_reord_in_place :
    after 0 (fun t => firstDigits t.bufA)
      ({ State.reset with bufA := bufferOf 0x0123456789ABCDEF#64 }.withFetchWord 32 0x000F0004) =
        0xEFCDAB8967452301#64 := by
  decide +kernel

/-- E3: "0123456789AB" gives "23016745AB89". -/
theorem test_remap :
    after 0 (fun t => firstDigits t.bufB)
      ({ State.reset with bufB := bufferOf 0x0123456789AB0000#64 }.withFetchWord 32 0x00010035) =
        0x23016745AB890000#64 := by
  decide +kernel

/-- Section 2.6, an odd base: digit 0 and the digits from 13 on are unchanged. -/
theorem test_remap_odd_base :
    after 0 (fun t => firstDigits t.bufB)
      ({ State.reset with bufA := bufferOf 0x0123456789ABCDEF#64 }.withFetchWord 32 0x00010125) =
        0x034127856BC9A000#64 := by
  decide +kernel

/-- E4: 0x2106 gives 392. -/
theorem test_cvt :
    after 0 State.res ({ State.reset with bufB := bufferOf 0x2106000000000000#64 }.withFetchWord 32 0x00000016) =
      0x00000188#32 := by
  decide +kernel

/-- Section 2.7: 0x03FF gives -64, the shift rounding down. -/
theorem test_cvt_negative :
    after 0 State.res ({ State.reset with bufB := bufferOf 0x03FF000000000000#64 }.withFetchWord 32 0x00000016) =
      0xFFFFFFC0#32 := by
  decide +kernel

/-- Section 2.8: B = "123" is cleared, STATUS 0x00007002. -/
theorem test_clr :
    after (0, 1) (fun t => (statusWord t, firstDigits t.bufB))
      ({ State.reset with bufB := bufferOf 0x1230000000000000#64 }.withFetchWord 32 0x00000017) = (0x00007002#32, 0) := by
  decide +kernel

/-- Section 2.1: an ABORT word with reserved bit 7 set is illegal, STATUS 0x00003812. -/
theorem test_illegal_word : after 0 statusWord (State.reset.withFetchWord 32 0x00000083) = 0x00003812#32 := by
  decide +kernel

/-- Section 2.2: CTRL reads 0x86 after 0x8E is written (bit 3 is reserved, REND = 0b11 is stored). -/
theorem test_ctrl_write :
    after 0 (fun t => busRead 0x004#12 t) (idle [.hostWrite 0x004#12 0x0000008E#32]) = 0x00000086#32 := by
  decide +kernel

/-- Section 2.3, the port violation: UNIT, STATUS 0x00001E12, LASTCNT still 0. -/
theorem test_unit_violation :
    after (0, 1) (fun t => (statusWord t, t.lastcnt))
      { scanning [.unitOffer 0x030201#64 3] with uw := 2 } = (0x00001E12#32, 0) := by
  decide +kernel

/-! ## Witnesses of the obligations' hypotheses -/

theorem witness_HostReadHasNoSideEffect : (idle [.hostRead 0xFFF#12]).meets (.hostRead 0xFFF#12) := ⟨rfl, rfl⟩

theorem witness_ReservedOffsetsAreInert_low :
    (0x054 ≤ (0x054#12).toNat ∧ (0x054#12).toNat ≤ 0x0FF) ∧ (0x054 ≤ (0x0FF#12).toNat ∧ (0x0FF#12).toNat ≤ 0x0FF) := by
  decide
theorem witness_ReservedOffsetsAreInert_high :
    (0x180 ≤ (0x180#12).toNat ∧ (0x180#12).toNat ≤ 0xFFF) ∧ (0x180 ≤ (0xFFF#12).toNat ∧ (0xFFF#12).toNat ≤ 0xFFF) := by
  decide

theorem witness_ReadOnlyRegistersIgnoreWrites :
    (0x003#12).toNat ≤ 0x003 ∧ (0x034 ≤ (0x034#12).toNat ∧ (0x034#12).toNat ≤ 0x053) ∧
      (0x034 ≤ (0x053#12).toNat ∧ (0x053#12).toNat ≤ 0x053) := by
  decide

theorem witness_GuardedWriteWhileBusyOnlySetsBwe_ctrl :
    (scanning []).phase ≠ .idle ∧ (0x007#12).toNat / 4 = 0x001 ∧ (0x7FFFFFFF#32).getLsbD 31 = false := by decide
theorem witness_GuardedWriteWhileBusyOnlySetsBwe_registers :
    (scanning []).phase ≠ .idle ∧ (0x014 ≤ (0x014#12).toNat ∧ (0x014#12).toNat ≤ 0x033) ∧
      (0x014 ≤ (0x033#12).toNat ∧ (0x033#12).toNat ≤ 0x033) := by decide
theorem witness_GuardedWriteWhileBusyOnlySetsBwe_buffers :
    (scanning []).phase ≠ .idle ∧ (0x100 ≤ (0x100#12).toNat ∧ (0x100#12).toNat ≤ 0x17F) ∧
      (0x100 ≤ (0x17F#12).toNat ∧ (0x17F#12).toNat ≤ 0x17F) := by decide

theorem witness_GuardedWriteWhileIdleReadsBack_ctrl :
    (idle []).phase = .idle ∧ (0x004#12).toNat / 4 = 0x001 ∧ (0x7FFFFFFF#32).getLsbD 31 = false := by decide
theorem witness_GuardedWriteWhileIdleReadsBack_narrow :
    (idle []).phase = .idle ∧ (0x014#12).toNat / 4 = 0x014 / 4 ∧ (0x01B#12).toNat / 4 = 0x018 / 4 ∧
      (0x01C#12).toNat / 4 = 0x01C / 4 ∧ (0x033#12).toNat / 4 = 0x030 / 4 := by decide
theorem witness_GuardedWriteWhileIdleReadsBack_whole :
    (idle []).phase = .idle ∧ (0x020 ≤ (0x020#12).toNat ∧ (0x020#12).toNat ≤ 0x02F) ∧
      (0x020 ≤ (0x02F#12).toNat ∧ (0x02F#12).toNat ≤ 0x02F) ∧ (0x100 ≤ (0x100#12).toNat ∧ (0x100#12).toNat ≤ 0x17F) ∧
      (0x100 ≤ (0x17F#12).toNat ∧ (0x17F#12).toNat ≤ 0x17F) := by decide

theorem witness_StatusWriteClearsByOnes : (0x00B#12).toNat / 4 = 0x008 / 4 := by decide
theorem witness_IenWriteStoresItsSixBits : (0x00F#12).toNat / 4 = 0x00C / 4 := by decide

theorem witness_BufferWindowHoldsDigitsInTextOrder :
    15 < 16 ∧ (0x13C#12).toNat = 0x100 + 4 * 15 ∧ (0x17C#12).toNat = 0x140 + 4 * 15 ∧ (idle []).phase = .idle ∧
      (scanning []).phase ≠ .idle := by
  decide

theorem witness_PatternIsTheDigitsOfPat0AndPat1 : ({ State.reset with plen := 16 } : State).plen.toNat ≤ 16 := by decide

theorem witness_EncodedCommandDecodesToItself : (Instr.reord .b .a 127 127).wellFormed = true := by decide
theorem witness_DecodedCommandEncodesToItsWord : decode 0x007F7F35#32 = .ok (.remap .b .b 127 127) := by decide

/-- A word that fits its row, one that does not, and a reserved opcode. -/
theorem witness_DecodeFollowsTheOpcodeMap :
    ((0x007F7F34#32).extractLsb' 0 4).toNat = 4 ∧ 0x007F7F34#32 &&& 0xFF8080CF#32 = 0x00000004#32 ∧
      ((0x00000084#32).extractLsb' 0 4).toNat = 4 ∧ 0x00000084#32 &&& 0xFF8080CF#32 ≠ 0x00000004#32 ∧
      8 ≤ ((0x00000008#32).extractLsb' 0 4).toNat := by decide

theorem witness_IllegalWordCompletesWithIllop :
    (idle [.hostWrite 0x010#12 0x00000008#32, .sfsTurn]).phase = .idle ∧
      (idle [.hostWrite 0x010#12 0x00000008#32, .sfsTurn]).resetPin = false ∧
      decode 0x00000008#32 = .error (.reservedOpcode 8) ∧
      (idle [.hostWrite 0x010#12 0x00000008#32, .sfsTurn]).inputs = .hostWrite 0x010#12 0x00000008#32 :: .sfsTurn :: [] := by
  decide

theorem witness_StepRunsTheDecodedCommand :
    (accept 0x00090024#32 (idle [])).sfsMoves ∧ (accept 0x00090024#32 (idle [])).phase = .pending ∧
      decode (accept 0x00090024#32 (idle [])).xcmd = .ok (.reord .a .b 9 0) :=
  ⟨⟨rfl, .inl rfl⟩, rfl, by decide⟩
theorem witness_SfsRestsUnlessPending :
    (scanning [.sfsTurn]).sfsMoves ∧ (scanning [.sfsTurn]).phase ≠ .pending := ⟨⟨rfl, .inr rfl⟩, by decide⟩
theorem witness_CommandWriteWhileIdleIsAccepted :
    (idle [.hostWrite 0x013#12 0xFFFFFFFF#32]).meets (.hostWrite 0x013#12 0xFFFFFFFF#32) ∧
      (0x013#12).toNat / 4 = 0x010 / 4 ∧ (idle [.hostWrite 0x013#12 0xFFFFFFFF#32]).phase = .idle :=
  ⟨⟨rfl, rfl⟩, by decide, rfl⟩
theorem witness_CommandWriteWhileBusyIsLost :
    (scanning [.hostWrite 0x010#12 0x00000013#32]).meets (.hostWrite 0x010#12 0x00000013#32) ∧
      (0x010#12).toNat / 4 = 0x010 / 4 ∧ (scanning [.hostWrite 0x010#12 0x00000013#32]).phase ≠ .idle ∧
      0x00000013#32 ≠ 0x00000003#32 := ⟨⟨rfl, rfl⟩, by decide, by decide, by decide⟩
theorem witness_AbortWhileBusyEndsTheCommand :
    (capturing [.hostWrite 0x010#12 0x00000003#32]).meets (.hostWrite 0x010#12 0x00000003#32) ∧
      (0x010#12).toNat / 4 = 0x010 / 4 ∧ (capturing [.hostWrite 0x010#12 0x00000003#32]).phase ≠ .idle :=
  ⟨⟨rfl, rfl⟩, by decide, by decide⟩
theorem witness_SoftResetDiscardsEverything :
    (scanning [.hostWrite 0x004#12 0x80000000#32]).meets (.hostWrite 0x004#12 0x80000000#32) ∧
      (0x004#12).toNat / 4 = 0x004 / 4 ∧ (0x80000000#32).getLsbD 31 = true := ⟨⟨rfl, rfl⟩, by decide, by decide⟩

theorem witness_AssemblePlacesEachByte : 8 ≤ 8 ∧ 7 < 8 ∧ 8 * 0 ≤ 63 := by decide
theorem witness_TextRendersByMode : 8 ≤ 8 ∧ 15 < 2 * 8 := by decide

theorem scanning_configured (es : List Input) : ScanaConfigured (scanning es) := by
  simp [ScanaConfigured, scanning, State.reset]
theorem witness_ScanaStartsWhenConfigured :
    ScanaConfigured (scanning []) ∧ ¬ ScanaConfigured State.reset := ⟨scanning_configured [], fun h => h.1 rfl⟩
theorem hunting_configured (es : List Input) : ScansConfigured (hunting es) := by
  simp [ScansConfigured, hunting, State.reset]
theorem witness_ScansStartsWhenConfigured :
    ScansConfigured (hunting []) ∧ ¬ ScansConfigured State.reset := ⟨hunting_configured [], fun h => h.1 rfl⟩

theorem witness_UnitsWaitForTheRequest :
    (idle [.unitOffer 0x01#64 1]).meets (.unitOffer 0x01#64 1) ∧ uReq (idle [.unitOffer 0x01#64 1]) = false :=
  ⟨⟨rfl, rfl⟩, rfl⟩
theorem witness_UnitsWaitForTheRequest_requested :
    (hunting [.unitOffer 0x01#64 1]).meets (.unitOffer 0x01#64 1) ∧ uReq (hunting [.unitOffer 0x01#64 1]) = true :=
  ⟨⟨rfl, rfl⟩, rfl⟩
theorem witness_UnitStepRecordsTheUnit_recorded :
    (scanning [.unitOffer 0x01#64 8]).meets (.unitOffer 0x01#64 8) ∧ (scanning [.unitOffer 0x01#64 8]).phase = .scana ∧
      (8#4).toNat ≤ (scanning [.unitOffer 0x01#64 8]).uw.toNat := ⟨⟨rfl, rfl⟩, rfl, by decide⟩
theorem witness_UnitStepRecordsTheUnit_violation :
    (capturing [.unitOffer 0x01#64 9]).meets (.unitOffer 0x01#64 9) ∧
      (capturing [.unitOffer 0x01#64 9]).phase = .capture ∧ (capturing [.unitOffer 0x01#64 9]).uw.toNat < (9#4).toNat :=
  ⟨⟨rfl, rfl⟩, rfl, by decide⟩
/-- A matching unit, and an empty one. -/
theorem witness_ScanaUnitStepCountsMatches :
    let s := scanning [.unitOffer 0x000000000000BEEF#64 8]
    s.meets (.unitOffer 0x000000000000BEEF#64 8) ∧ s.phase = .scana ∧ ScanaConfigured s ∧ (8#4).toNat ≤ s.uw.toNat ∧
      (8#4) ≠ 0 ∧ firstMatch s.pattern (hexText (assemble 0x000000000000BEEF#64 8 s.bord) 8 s.rend) = some 12 :=
  ⟨⟨rfl, rfl⟩, rfl, scanning_configured _, by decide, by decide, by decide +kernel⟩
theorem witness_ScanaUnitStepCountsMatches_empty :
    (scanning [.unitOffer 0#64 0]).meets (.unitOffer 0#64 0) ∧ (scanning [.unitOffer 0#64 0]).phase = .scana ∧
      ScanaConfigured (scanning [.unitOffer 0#64 0]) ∧ (0#4).toNat ≤ (scanning [.unitOffer 0#64 0]).uw.toNat :=
  ⟨⟨rfl, rfl⟩, rfl, scanning_configured _, by decide⟩
/-- The sentinel, and another value. -/
theorem witness_HuntUnitStepSeeksTheSentinel :
    let s := hunting [.unitOffer 0xAA#64 1]
    s.meets (.unitOffer 0xAA#64 1) ∧ s.phase = .hunt ∧ (1#4).toNat ≤ s.uw.toNat ∧
      ((1#4) ≠ 0 ∧ assemble 0xAA#64 1 s.bord = s.sentHi ++ s.sentLo) ∧ assemble 0xAB#64 1 s.bord ≠ s.sentHi ++ s.sentLo :=
  ⟨⟨rfl, rfl⟩, rfl, by decide, by decide +kernel, by decide +kernel⟩
theorem witness_CaptureUnitStepFillsTheFrame :
    let s := capturing [.unitOffer 0x55#64 1]
    s.meets (.unitOffer 0x55#64 1) ∧ s.phase = .capture ∧ (1#4).toNat ≤ s.uw.toNat ∧ s.ccnt.toNat < s.frmk.toNat ∧
      s.frmk.toNat ≤ 8 ∧ (1#4) ≠ 0 := ⟨⟨rfl, rfl⟩, rfl, by decide, by decide, by decide, by decide⟩
theorem witness_CaptureUnitStepFillsTheFrame_empty :
    (capturing [.unitOffer 0#64 0]).meets (.unitOffer 0#64 0) ∧ (capturing [.unitOffer 0#64 0]).phase = .capture ∧
      (0#4).toNat ≤ (capturing [.unitOffer 0#64 0]).uw.toNat ∧ (0#4) = 0 := ⟨⟨rfl, rfl⟩, rfl, by decide, rfl⟩

/-- Program P1's scan at its start, with the events `es` to come. -/
def starting (es : List Input) : State := { scanning es with mcnt := 0, acnt := 0, mpos := 0 }
theorem starting_configured (es : List Input) : ScanaConfigured (starting es) := by
  simp [ScanaConfigured, starting, scanning, State.reset]
/-- Program P1's units but the last: one that does not match, an empty one, and one that matches. -/
def feed : List (UnitValue × BitVec 4) := [(0x7766554433221100#64, 8), (0#64, 0), (0x000000000000BEEF#64, 8)]
/-- Program P1's last unit. -/
def lastUnit : UnitValue × BitVec 4 := (0x0605040302BEEF01#64, 8)

theorem witness_FoundExactlyAtTheNthMatch :
    let s := starting (offers (feed ++ [lastUnit]) ++ [.sfsTurn])
    s.phase = .scana ∧ s.resetPin = false ∧ ScanaConfigured s ∧ s.mcnt = 0 ∧ s.acnt = 0 ∧
      s.inputs = offers (feed ++ [lastUnit]) ++ [.sfsTurn] ∧ (∀ x ∈ feed ++ [lastUnit], x.2.toNat ≤ s.uw.toNat) ∧
      feed.length + 1 ≤ s.maxatt.toNat ∧ feed.countP (unitMatches s) + 1 = s.nmatch.toNat ∧ unitMatches s lastUnit = true :=
  ⟨rfl, rfl, starting_configured _, rfl, rfl, rfl, by simp [feed, lastUnit, starting, scanning, State.reset], by decide,
    by decide +kernel, by decide +kernel⟩

/-- Five units, none of which matches. -/
def barren : List (UnitValue × BitVec 4) := [(1#64, 8), (0#64, 0), (0xBE#64, 1), (0xEF#64, 1), (0xEEFB#64, 2)]

theorem barren_matches_nothing : ∀ x ∈ barren, unitMatches (starting (offers barren ++ [])) x = false := by
  intro x hx
  simp only [barren, List.mem_cons, List.not_mem_nil, or_false] at hx
  rcases hx with rfl | rfl | rfl | rfl | rfl <;> decide +kernel

theorem witness_TimeoutExactlyAtTheLastAttempt :
    let s := starting (offers barren ++ [])
    s.phase = .scana ∧ s.resetPin = false ∧ ScanaConfigured s ∧ s.mcnt = 0 ∧ s.acnt = 0 ∧
      s.inputs = offers barren ++ [] ∧ (∀ x ∈ barren, x.2.toNat ≤ s.uw.toNat) ∧ barren.length = s.maxatt.toNat ∧
      (∀ x ∈ barren, unitMatches s x = false) :=
  ⟨rfl, rfl, starting_configured _, rfl, rfl, rfl, by simp [barren, starting, scanning, State.reset], by decide,
    fun x hx => barren_matches_nothing x hx⟩

/-- The whole buffer, and one byte. -/
theorem witness_ReordReversesTheBytes :
    (0 % 2 = 0 ∧ 127 % 2 = 1 ∧ 0 < 127 ∧ 127 ≤ 127) ∧ (126 % 2 = 0 ∧ 127 % 2 = 1 ∧ 126 < 127 ∧ 127 ≤ 127) := by decide
/-- Operands of a legal range, and of one that is not. -/
theorem witness_ReordRefusesOtherRanges :
    (127 ≤ 127 ∧ 126 ≤ 127 ∧ (126 % 2 = 0 ∧ 127 % 2 = 1 ∧ 126 < 127)) ∧
      (127 ≤ 127 ∧ 127 ≤ 127 ∧ ¬ (127 % 2 = 0 ∧ 127 % 2 = 1 ∧ 127 < 127)) := by decide
theorem witness_ReordTwiceRestoresTheRange : 4 % 2 = 0 ∧ 127 % 2 = 1 ∧ 4 < 127 ∧ 127 ≤ 127 := by decide
/-- One group at the last legal base, and ten groups; digit 11 of a group. -/
theorem witness_RemapPermutesEachGroup :
    (1 ≤ 1 ∧ 116 + 12 * 1 ≤ 128) ∧ (1 ≤ 10 ∧ 8 + 12 * 10 ≤ 128) ∧
      [2, 3, 0, 1, 6, 7, 4, 5, 10, 11, 8, 9][11]? = some 9 := by decide
/-- Operands that fit the buffer, and three pairs that do not. -/
theorem witness_RemapRefusesGroupsOutsideTheBuffer :
    (1 ≤ 10 ∧ 8 + 12 * 10 ≤ 128) ∧ ¬ (1 ≤ 0 ∧ 0 + 12 * 0 ≤ 128) ∧ ¬ (1 ≤ 1 ∧ 117 + 12 * 1 ≤ 128) ∧
      ¬ (1 ≤ 11 ∧ 0 + 12 * 11 ≤ 128) := by decide
theorem witness_RemapTwiceInPlaceRestores : 1 ≤ 10 ∧ 8 + 12 * 10 ≤ 128 := by decide
theorem witness_ReordAndRemapCommuteOnWholeGroups : 1 ≤ 10 ∧ 12 * 10 ≤ 128 := by decide
theorem witness_CvtSwapsAndShifts : 124 ≤ 124 := by decide
theorem witness_CvtRefusesOffsetsOutsideTheBuffer : 124 ≤ 124 ∧ 124 < 125 := by decide
theorem witness_TransformsAreIdempotent :
    BufSel.a ≠ BufSel.b ∧ exec (.clr .a) (idle []) = .next (finish .ok ((idle []).setBuf .a clearedBuffer)) :=
  ⟨by decide, rfl⟩

/-- A step from busy to idle that changes CODE: the abort of a scan. -/
theorem witness_CommandsEndByCompletionOrReset :
    let s := scanning [.hostWrite 0x010#12 0x00000003#32]
    ∃ t, step s = .next t ∧ ¬ s.resetting ∧ s.phase ≠ .idle ∧ t.phase = .idle ∧ t.code ≠ s.code :=
  ⟨_, rfl, by simp [State.resetting, State.event, scanning], by decide, rfl, by decide⟩
theorem witness_FlagsAreSticky :
    let s := { idle [.sfsTurn] with flags := ⟨true, true, true, true, true, true⟩ }
    step s = .next s.rest ∧ ¬ s.resetting ∧
      (∀ off v, s.event = some (.hostWrite off v) → off.toNat / 4 ≠ 0x008 / 4) ∧ s.flags = ⟨true, true, true, true, true, true⟩ :=
  ⟨rfl, by simp [State.resetting, State.event, idle], by simp [State.event, idle], rfl⟩
theorem witness_ConfigurationIsFrozenWhileBusy :
    let s := scanning [.hostWrite 0x014#12 0x00000005#32]
    (∃ t, step s = .next t) ∧ s.phase ≠ .idle ∧ ¬ s.resetting :=
  ⟨⟨_, rfl⟩, by decide, by simp [State.resetting, State.event, scanning]⟩
/-- A CVT that changes RES, and a SCANA that changes MCNT. -/
theorem witness_ResultRegistersHaveOneWriter_res :
    after false (fun t => t.res != 0) { accept 0x00000016#32 State.reset with bufB := bufferOf 0x2106000000000000#64 } = true ∧
      ¬ (accept 0x00000016#32 State.reset).resetting :=
  ⟨by decide +kernel, by simp [State.resetting, State.event, accept, State.reset]⟩
theorem witness_ResultRegistersHaveOneWriter_mcnt :
    after false (fun t => t.mcnt != 1) (scanning [.unitOffer 0x000000000000BEEF#64 8]) = true ∧
      ¬ (scanning [.unitOffer 0x000000000000BEEF#64 8]).resetting :=
  ⟨by decide +kernel, by simp [State.resetting, State.event, scanning]⟩

theorem witness_ResetGivesTheTable : (scanning [.resetLevel true]).event = some (.resetLevel true) := rfl
theorem witness_ResetGivesTheTable_soft :
    (scanning [.hostWrite 0x007#12 0x80000000#32]).resetPin = false ∧
      (scanning [.hostWrite 0x007#12 0x80000000#32]).resetting := ⟨rfl, .inr ⟨_, _, rfl, by decide, by decide⟩⟩
/-- The release of the reset input, and an access while it is asserted. -/
theorem witness_NothingHappensWhileReset :
    ({ idle [.resetLevel false] with resetPin := true } : State).event = some (.resetLevel false) ∧
      ∀ b, ({ idle [.hostRead 0x000#12] with resetPin := true } : State).event ≠ some (.resetLevel b) :=
  ⟨rfl, by simp [State.event, idle]⟩
/-- A running address scan meets the invariant, and steps on. -/
theorem witness_EveryStepKeepsTheInvariant :
    let s := scanning [.unitOffer 0x000000000000BEEF#64 8]
    s.Inv ∧ ∃ t, step s = .next t :=
  ⟨⟨nofun, fun _ => ⟨scanning_configured _, by decide, by decide⟩, nofun, nofun, nofun, nofun⟩, ⟨_, rfl⟩⟩

end Sys2Proof.Tests
end

section
/-! PROOFS. STATUS bit by bit and its write-one-to-clear (10_state.md R29 to R39); the buffer windows, both buffers at
once (10_state.md R55). -/

namespace Sys2Proof.Machine

/-! ## STATUS -/

/-- STATUS as the bits 0, 6:1, 7, 11:8, 15:12, 18:16 and 31:19 its rules name (R29 to R39). -/
theorem getLsbD_statusWord (s : State) (i : Nat) :
    (statusWord s).getLsbD i =
      if i < 1 then s.busy
      else if i < 7 then s.flags.bits.getLsbD (i - 1)
      else if i < 8 then false
      else if i < 12 then s.code.bits.getLsbD (i - 8)
      else if i < 16 then s.lastop.getLsbD (i - 12)
      else if i < 19 then s.phase.bits.getLsbD (i - 16)
      else false := by
  simp only [statusWord, BitVec.getLsbD_append, Nat.sub_sub]
  by_cases h : i < 19
  · interval_cases i <;> simp
  · simp (disch := omega) only [if_neg, BitVec.getLsbD_zero]

/-- W1C on the flags as bits: bit `j` of the flags is bit `j + 1` of STATUS. -/
theorem getLsbD_bits_writeOneToClear (f : Flags) (v : Word) (j : Nat) :
    (f.writeOneToClear v).bits.getLsbD j = (f.bits.getLsbD j && !v.getLsbD (j + 1)) := by
  by_cases hj : j < 6
  · simp only [Flags.bits, BitVec.getLsbD_append]
    interval_cases j <;> simp [Flags.writeOneToClear]
  · rw [BitVec.getLsbD_of_ge _ _ (by omega), BitVec.getLsbD_of_ge _ _ (by omega), Bool.false_and]

theorem busRead_status (s : State) : busRead 0x008#12 s = statusWord s := rfl

/-- A write to STATUS is never guarded (R39). -/
theorem busWrite_status {off : Offset} (h : off.toNat / 4 = 0x008 / 4) (v : Word) (s : State) :
    busWrite off v s = { s with flags := s.flags.writeOneToClear v } := by
  rw [busWrite, regAt_of_div off h]
  rfl

/-- Settles O7: the only bits of STATUS that the flags reach are 6:1, and the write acts on the flags alone. -/
theorem statusWriteClearsByOnes : Obligations.StatusWriteClearsByOnes := by
  intro s off v hoff
  rw [busWrite_status hoff, busRead_status, busRead_status]
  refine ⟨fun i => ?_, fun i hi => ?_, rfl⟩
  · by_cases hi : 1 ≤ i ∧ i ≤ 6
    · obtain ⟨j, rfl⟩ : ∃ j, i = j + 1 := ⟨i - 1, by omega⟩
      have flagBit : ¬ j + 1 < 1 ∧ j + 1 < 7 := by omega
      simp [getLsbD_statusWord, flagBit, hi, getLsbD_bits_writeOneToClear]
    · have notFlagBit : i < 1 ∨ ¬ i < 7 := by omega
      rcases notFlagBit with h | h <;> simp [getLsbD_statusWord, h, hi, State.busy]
  · rw [getLsbD_statusWord]
    rcases hi with rfl | hi
    · rfl
    · simp (disch := omega) only [if_neg]

/-! ## The buffer windows -/

/-- The register at word `w` of a buffer's window. -/
def windowReg : BufSel → Nat → Reg
  | .a, w => .bufA w
  | .b, w => .bufB w

/-- The offset of a buffer's window (R55). -/
def windowBase : BufSel → Nat
  | .a => 0x100
  | .b => 0x140

/-- Offset 0x100 + 4w names BUFAw, and 0x140 + 4w names BUFBw (R55). -/
theorem regAt_window (d : BufSel) {off : Offset} {w : Nat} (hw : w < 16) (h : off.toNat = windowBase d + 4 * w) :
    regAt off = windowReg d w := by
  cases d with
  | a => rw [regAt_of_div off (by rw [h, windowBase]; omega : off.toNat / 4 = 64 + w), regOfWord_bufA hw, windowReg]
  | b => rw [regAt_of_div off (by rw [h, windowBase]; omega : off.toNat / 4 = 80 + w), regOfWord_bufB hw, windowReg]

theorem readReg_windowReg (d : BufSel) (w : Nat) (s : State) :
    readReg s (windowReg d w) = bufferWord (s.buf d) w := by cases d <;> rfl

theorem writeReg_windowReg (d : BufSel) (w : Nat) (v : Word) (s : State) :
    writeReg s (windowReg d w) v = guardedWrite (windowReg d w) v s := by cases d <;> rfl

theorem storeGuarded_windowReg (d : BufSel) (w : Nat) (v : Word) (s : State) :
    storeGuarded (windowReg d w) v s = s.setBuf d (writeBufferWord (s.buf d) w v) := by cases d <;> rfl

theorem guardedWrite_of_idle {s : State} (h : s.phase = .idle) (r : Reg) (v : Word) :
    guardedWrite r v s = storeGuarded r v s := by
  rw [guardedWrite, (busy_eq_false_iff s).2 h, if_neg Bool.false_ne_true]

theorem guardedWrite_of_busy {s : State} (h : s.phase ≠ .idle) (r : Reg) (v : Word) :
    guardedWrite r v s = busyWriteError s := by
  rw [guardedWrite, (busy_iff s).2 h, if_pos rfl]

section
variable {off : Offset} {w : Nat} (d : BufSel) (hw : w < 16) (hoff : off.toNat = windowBase d + 4 * w)
include hw hoff

theorem windowDigit_busRead_window (s : State) {j : Nat} (hj : j < 8) :
    windowDigit (busRead off s) j = digitAt (s.buf d) (8 * w + j) := by
  rw [busRead, regAt_window d hw hoff, readReg_windowReg, bufferWord, windowDigit_windowWord _ hj]

theorem busWrite_window_of_idle (v : Word) {s : State} (hs : s.phase = .idle) :
    busWrite off v s = s.setBuf d (writeBufferWord (s.buf d) w v) := by
  rw [busWrite, regAt_window d hw hoff, writeReg_windowReg, guardedWrite_of_idle hs, storeGuarded_windowReg]

theorem busWrite_window_of_busy (v : Word) {s : State} (hs : s.phase ≠ .idle) :
    busWrite off v s = busyWriteError s := by
  rw [busWrite, regAt_window d hw hoff, writeReg_windowReg, guardedWrite_of_busy hs]

theorem digitAt_busWrite_window_of_idle (v : Word) {s : State} (hs : s.phase = .idle) {j : Nat} (hj : j < 8) :
    digitAt ((busWrite off v s).buf d) (8 * w + j) = windowDigit v j := by
  rw [busWrite_window_of_idle d hw hoff v hs, setBuf_buf, if_pos rfl, digitAt_writeBufferWord, if_pos (by omega),
    Nat.add_sub_cancel_left]

end

/-- Settles O9: the rules of a buffer's window, for A and for B. -/
theorem bufferWindowHoldsDigitsInTextOrder : Obligations.BufferWindowHoldsDigitsInTextOrder := by
  intro s offA offB v w hw hA hB
  refine ⟨fun j hj => ?read, fun idle j hj => ?store, fun busy => ?guard⟩
  case read => exact ⟨windowDigit_busRead_window .a hw hA s hj, windowDigit_busRead_window .b hw hB s hj⟩
  case store =>
    exact ⟨digitAt_busWrite_window_of_idle .a hw hA v idle hj, digitAt_busWrite_window_of_idle .b hw hB v idle hj⟩
  case guard => exact ⟨busWrite_window_of_busy .a hw hA v busy, busWrite_window_of_busy .b hw hB v busy⟩

end Sys2Proof.Machine
end

section
/-! PROOFS. Offsets as the host's accesses see them: bits 1:0 are ignored, reserved words are inert (20_memory.md R62,
R63). -/

namespace Sys2Proof.Machine

/-! ## An access sees its offset through the register the offset names -/

theorem busRead_of_regAt {off : Offset} {r : Reg} (h : regAt off = r) (s : State) : busRead off s = readReg s r := by
  rw [busRead, h]

theorem busWrite_of_regAt {off : Offset} {r : Reg} (h : regAt off = r) (v : Word) (s : State) :
    busWrite off v s = writeReg s r v := by
  rw [busWrite, h]

theorem readReg_reserved (s : State) : readReg s .reserved = 0 := rfl

theorem writeReg_reserved (s : State) (v : Word) : writeReg s .reserved v = s := rfl

/-! ## Which register an offset names -/

/-- Both offsets lie in the same word of the window (R62). -/
theorem regAt_clearLowBits (off : Offset) : regAt off = regAt (off &&& 0xFFC#12) :=
  regAt_of_div off (offset_word off).symm

/-- Offsets 0x054 to 0x0FF are words 21 to 63, and those from 0x180 on are words 96 and above (R63). -/
theorem regAt_reserved {off : Offset} (h : (0x054 ≤ off.toNat ∧ off.toNat ≤ 0x0FF) ∨ 0x180 ≤ off.toNat) :
    regAt off = .reserved := by
  have reservedWord : 21 ≤ off.toNat / 4 ∧ off.toNat / 4 < 64 ∨ 96 ≤ off.toNat / 4 := by omega
  rw [regAt_of_div off rfl, regOfWord_reserved reservedWord]

/-! ## The two statements -/

/-- Settles O2: an access sees only the register its offset names, and clearing bits 1:0 names the same one. -/
theorem offsetLowBitsAreIgnored : Obligations.OffsetLowBitsAreIgnored := by
  intro s off v
  have sameReg := regAt_clearLowBits off
  exact ⟨busRead_of_regAt sameReg s, busWrite_of_regAt sameReg v s⟩

/-- Settles O3: every offset of the two ranges names the reserved register. -/
theorem reservedOffsetsAreInert : Obligations.ReservedOffsetsAreInert := by
  intro s off v hoff
  have reserved : regAt off = .reserved := regAt_reserved (hoff.imp_right And.left)
  constructor
  · rw [busRead_of_regAt reserved, readReg_reserved]
  · rw [busWrite_of_regAt reserved, writeReg_reserved]

end Sys2Proof.Machine
end

section
/-! PROOFS. The decoder read off the opcode map (30_encoding.md R91, R92), and an illegal word from its acceptance to
its completion (30_encoding.md R93). -/

namespace Sys2Proof

/-! ## The rows of the opcode map -/

theorem select_of_fits {r : OpcodeRow} {w : Word} (h : w &&& r.mask = r.pattern) (i : Instr) :
    r.select w i = .ok i := if_pos (beq_iff_eq.2 h)

theorem select_of_not_fits {r : OpcodeRow} {w : Word} (h : w &&& r.mask ≠ r.pattern) (i : Instr) :
    r.select w i = .error (.nonzeroFixedBits (opField w)) := if_neg (mt beq_iff_eq.1 h)

/-- The opcode map in order of OP, each row with its command and the operands `w` gives it (R91). -/
def rowCommands (w : Word) : List (OpcodeRow × Instr) :=
  [(rowNop, .nop), (rowScana, .scana), (rowScans, .scans), (rowAbort, .abort),
   (rowReord, .reord (srcField w) (dstField w) (fbField w) (faField w)),
   (rowRemap, .remap (srcField w) (dstField w) (faField w) (fbField w)),
   (rowCvt, .cvt (srcField w) (faField w)), (rowClr, .clr (srcField w))]

/-- OP alone selects the row that decides a word (R92). -/
theorem decode_of_row {w : Word} {k : Nat} {r : OpcodeRow} {i : Instr} (hrow : (rowCommands w)[k]? = some (r, i))
    (hop : (opField w).toNat = k) : decode w = r.select w i := by
  obtain ⟨hk, hget⟩ := List.getElem?_eq_some_iff.1 hrow
  change k < 8 at hk
  rw [decode, hop]
  interval_cases k <;> (cases hget; rfl)

/-- An OP of 8 or more selects no row (R86, R92). -/
theorem decode_of_reservedOpcode {w : Word} (h : 8 ≤ (opField w).toNat) :
    decode w = .error (.reservedOpcode (opField w)) := by
  unfold decode
  split
  case h_9 => rfl
  all_goals omega

/-- Settles O13: OP selects the row, and the row's mask and match decide between its command and an error. -/
theorem decodeFollowsTheOpcodeMap : Obligations.DecodeFollowsTheOpcodeMap := by
  intro w s d fa fb rows
  have rows_eq : rows = (rowCommands w).map fun x => (x.1.pattern, x.1.mask, x.2) := rfl
  refine ⟨fun k row hrow hop => ?inMap, fun hop => ?reserved⟩
  case inMap =>
    rw [rows_eq, List.getElem?_map, Option.mem_map] at hrow
    obtain ⟨⟨r, i⟩, hget, rfl⟩ := hrow
    have selected : decode w = r.select w i := decode_of_row hget hop
    rw [selected]
    exact ⟨fun fits => select_of_fits fits i, fun differs => ⟨_, select_of_not_fits differs i⟩⟩
  case reserved => exact ⟨_, decode_of_reservedOpcode hop⟩

end Sys2Proof

namespace Sys2Proof.Machine

/-! ## Acceptance, and the dispatch of an illegal word -/

theorem busWrite_cmd {off : Offset} (h : off.toNat / 4 = 0x010 / 4) (w : Word) (s : State) :
    busWrite off w s = commandWrite w s := by
  rw [busWrite_of_regAt (regAt_of_div off h)]
  rfl

theorem commandWrite_of_idle {s : State} (h : s.phase = .idle) (w : Word) : commandWrite w s = accept w s := by
  rw [commandWrite, (busy_eq_false_iff s).2 h, if_neg Bool.false_ne_true]

/-- A CMD write met while idle is an acceptance, whatever the word (40_command_control.md R100). -/
theorem step_of_commandWrite_idle {s : State} {off : Offset} {w : Word} (hmeets : s.meets (.hostWrite off w))
    (hoff : off.toNat / 4 = 0x010 / 4) (idle : s.phase = .idle) : step s = .next (accept w s.rest) := by
  rw [step_hostWrite hmeets, busWrite_cmd hoff, commandWrite_of_idle (s := s.rest) idle]

theorem sfsTurn_of_pending {s : State} (pending : s.phase = .pending) (released : s.resetPin = false) :
    sfsTurn s = dispatchStep s := if_pos ⟨pending, released⟩

theorem dispatchStep_of_illegal {s : State} {e : DecodeError} (h : decode s.xcmd = .error e) :
    dispatchStep s = .next (finish .illop s) := by
  rw [dispatchStep, h]
  rfl

/-- The dispatch step of an illegal word is its completion (R93, 40_command_control.md R102). -/
theorem step_of_illegalWord {s : State} {e : DecodeError} (moves : s.sfsMoves) (pending : s.phase = .pending)
    (illegal : decode s.xcmd = .error e) : step s = .next (finish .illop s.rest) := by
  have dispatch : sfsTurn s.rest = dispatchStep s.rest := sfsTurn_of_pending pending moves.1
  have completion : dispatchStep s.rest = .next (finish .illop s.rest) := dispatchStep_of_illegal illegal
  rw [step_sfsMoves moves, dispatch, completion]

/-- What a completion with ILLOP sets (60_exceptions.md R211, R212). -/
theorem finish_illop (s : State) :
    finish .illop s =
      { s with code := .illop, phase := .idle, flags := { s.flags with done := true, err := true } } := by
  rw [finish, complete_error _ _ rfl]

/-- A run goes through the state its first step answers. -/
theorem run_succ_of_step {M : Host.Core} {s t : M.State} (h : M.step s = .next t) (k : Nat) :
    M.run (k + 1) s = M.run k t := by
  rw [Host.Core.run, h]

/-- Settles O15: the first step accepts the word, the second completes it with ILLOP. -/
theorem illegalWordCompletesWithIllop : Obligations.IllegalWordCompletesWithIllop := by
  intro s w e rest idle released illegal hinputs
  have meets : s.meets (.hostWrite 0x010#12 w) := ⟨released, by rw [State.event, hinputs, List.head?_cons]⟩
  have accepted : step s = .next (accept w s.rest) := step_of_commandWrite_idle meets rfl idle
  have moves : (accept w s.rest).sfsMoves := by
    refine ⟨released, .inr ?_⟩
    rw [State.event, accept_inputs, rest_inputs, hinputs, List.tail_cons, List.head?_cons]
  have completed : step (accept w s.rest) = .next (finish .illop (accept w s.rest).rest) :=
    step_of_illegalWord moves rfl illegal
  have taken : s.inputs.tail.tail = rest := by rw [hinputs, List.tail_cons, List.tail_cons]
  calc Sys2Proof.core.run 2 s
    _ = Sys2Proof.core.run 1 (accept w s.rest) := run_succ_of_step (M := Sys2Proof.core) accepted 1
    _ = .next (finish .illop (accept w s.rest).rest) := run_succ_of_step (M := Sys2Proof.core) completed 0
    _ = _ := by rw [finish_illop, ← taken]; rfl

end Sys2Proof.Machine
end

section
/-! PROOFS. The host's commands to the SFS: a CMD write idle and busy, ABORT among them, and the soft reset
(40_command_control.md R100, R101, R105, R107). -/

namespace Sys2Proof.Machine

/-! ## A CMD write while busy -/

theorem commandWrite_of_busy {s : State} (h : s.phase ≠ .idle) (w : Word) :
    commandWrite w s = if w = 0x00000003#32 then abortInProgress s else busyWriteError s := by
  rw [commandWrite, (busy_iff s).2 h, if_pos rfl]

/-- A CMD write met while busy cancels or is lost, by the word alone (R101, R105). -/
theorem step_of_commandWrite_busy {s : State} {off : Offset} {w : Word} (hmeets : s.meets (.hostWrite off w))
    (hoff : off.toNat / 4 = 0x010 / 4) (busy : s.phase ≠ .idle) :
    step s = .next (if w = 0x00000003#32 then abortInProgress s.rest else busyWriteError s.rest) := by
  rw [step_hostWrite hmeets, busWrite_cmd hoff, commandWrite_of_busy (s := s.rest) busy]

/-- What the cancellation of a command in progress sets (R105). -/
theorem abortInProgress_eq (s : State) :
    abortInProgress s = { s with code := .aborted, phase := .idle, flags := { s.flags with done := true } } := by
  rw [abortInProgress, finish, complete_aborted]

theorem uReq_of_idle {s : State} (h : s.phase = .idle) : uReq s = false := by rw [uReq, h]

/-! ## A CTRL write with bit 31 set -/

theorem busWrite_ctrl {off : Offset} (h : off.toNat / 4 = 0x004 / 4) (v : Word) (s : State) :
    busWrite off v s = controlWrite v s := by
  rw [busWrite_of_regAt (regAt_of_div off h)]
  rfl

/-- Bit 31 alone makes the write a reset: neither the other bits nor PHASE are looked at (10_state.md R27). -/
theorem controlWrite_of_softReset {v : Word} (h : v.getLsbD 31 = true) (s : State) :
    controlWrite v s = resetAction s := if_pos h

/-- With the reset input released, the level the reset action keeps is the reset state's own. -/
theorem resetAction_of_released {s : State} (h : s.resetPin = false) :
    resetAction s = { State.reset with inputs := s.inputs, readData := s.readData } := by
  rw [resetAction, h]
  rfl

/-! ## The four statements -/

/-- Settles O18: a CMD write met while idle is an acceptance, which sets XCMD, LASTOP and PHASE. -/
theorem commandWriteWhileIdleIsAccepted : Obligations.CommandWriteWhileIdleIsAccepted := by
  intro s off w hmeets hoff idle
  rw [step_of_commandWrite_idle hmeets hoff idle]
  rfl

/-- Settles O19: a word other than ABORT's takes the busy-write branch. -/
theorem commandWriteWhileBusyIsLost : Obligations.CommandWriteWhileBusyIsLost := by
  intro s off w hmeets hoff busy notAbort
  rw [step_of_commandWrite_busy hmeets hoff busy, if_neg notAbort]
  rfl

/-- Settles O20: the ABORT word takes the cancelling branch, and `u_req` is 0 because PHASE is IDLE. -/
theorem abortWhileBusyEndsTheCommand : Obligations.AbortWhileBusyEndsTheCommand := by
  intro s off hmeets hoff busy
  refine ⟨abortInProgress s.rest, ?cancels, uReq_of_idle ?idle, ?effect⟩
  case cancels => rw [step_of_commandWrite_busy hmeets hoff busy, if_pos rfl]
  case idle => exact finish_phase s.rest .aborted
  case effect =>
    rw [abortInProgress_eq]
    rfl

/-- Settles O23: the write is the reset action, busy or idle. -/
theorem softResetDiscardsEverything : Obligations.SoftResetDiscardsEverything := by
  intro s off v hmeets hoff softReset
  have released : s.rest.resetPin = false := hmeets.1
  rw [step_hostWrite hmeets, busWrite_ctrl hoff, controlWrite_of_softReset softReset, resetAction_of_released released]
  rfl

end Sys2Proof.Machine
end

section
/-! PROOFS. The unit functions of the pattern matcher: the value of a unit, its text, and the position of a match
(41_pattern_matcher.md R121 to R124). -/

namespace Sys2Proof.Machine

/-! ## The value of a unit -/

/-- The bytes `b 0` to `b (n - 1)` as one value, `b 0` least significant. -/
def packBytes (b : Nat → BitVec 8) (n : Nat) : UnitValue := sumBelow (fun i => (b i).setWidth 64 <<< (8 * i)) n

theorem packBytes_succ (b : Nat → BitVec 8) (n : Nat) :
    packBytes b (n + 1) = packBytes b n + (b n).setWidth 64 <<< (8 * n) := rfl

theorem getLsbD_byteInPlace (x : BitVec 8) {n : Nat} (hn : n < 8) (k : Nat) :
    (x.setWidth 64 <<< (8 * n)).getLsbD k = (decide (8 * n ≤ k) && x.getLsbD (k - 8 * n)) := by
  rw [BitVec.getLsbD_shiftLeft, BitVec.getLsbD_setWidth]
  by_cases below : k < 8 * n
  · simp [below]
  by_cases inByte : k - 8 * n < 8
  · simp [show k < 64 by omega, show k - 8 * n < 64 by omega, Nat.not_lt.1 below]
  · simp [BitVec.getLsbD_of_ge x _ (by omega : 8 ≤ k - 8 * n)]

/-- Every bit of packed bytes. No two bytes share a bit, so the sum is their union. -/
theorem getLsbD_packBytes (b : Nat → BitVec 8) {n : Nat} (hn : n ≤ 8) (k : Nat) :
    (packBytes b n).getLsbD k = (decide (k < 8 * n) && (b (k / 8)).getLsbD (k % 8)) := by
  induction n generalizing k with
  | zero => simp [packBytes, sumBelow]
  | succ n ih =>
    have bitsBelow := ih (by omega)
    have bitsOfByte := getLsbD_byteInPlace (b n) (by omega : n < 8)
    have disjoint : packBytes b n &&& (b n).setWidth 64 <<< (8 * n) = 0#64 := by
      apply BitVec.eq_of_getLsbD_eq
      intro i _
      by_cases below : i < 8 * n <;> simp [bitsBelow, bitsOfByte, below]
    rw [packBytes_succ, BitVec.add_eq_or_of_and_eq_zero _ _ disjoint, BitVec.getLsbD_or, bitsBelow, bitsOfByte]
    by_cases below : k < 8 * n
    · simp [below, show k < 8 * (n + 1) by omega]
    by_cases inByte : k < 8 * (n + 1)
    · simp [below, inByte, show k / 8 = n by omega, show k % 8 = k - 8 * n by omega, Nat.not_lt.1 below]
    · simp [below, inByte, BitVec.getLsbD_of_ge (b n) _ (by omega : 8 ≤ k - 8 * n)]

theorem extractByte_packBytes (b : Nat → BitVec 8) {n i : Nat} (hn : n ≤ 8) (hi : i < n) :
    (packBytes b n).extractLsb' (8 * i) 8 = b i := by
  apply BitVec.eq_of_getLsbD_eq
  intro j hj
  simp [getLsbD_packBytes b hn, hj, show 8 * i + j < 8 * n by omega, show (8 * i + j) / 8 = i by omega,
    Nat.mod_eq_of_lt hj]

theorem sumBelow_eq_sum (f : Nat → UnitValue) (n : Nat) : sumBelow f n = ∑ i ∈ Finset.range n, f i := by
  induction n with
  | zero => rfl
  | succ n ih => rw [sumBelow, ih, Finset.sum_range_succ]

/-- BORD = 0: the first byte received is least significant (R121). -/
theorem assemble_firstLow (data : UnitValue) (c : Nat) : assemble data c 0 = packBytes (lane data) c := rfl

/-- BORD = 1: the last byte received is least significant (R121). -/
theorem assemble_firstHigh (data : UnitValue) (c : Nat) :
    assemble data c 1 = packBytes (fun i => lane data (c - 1 - i)) c := by
  have reversed : assemble data c 1 = sumBelow (fun i => (lane data i).setWidth 64 <<< (8 * (c - 1 - i))) c := rfl
  rw [reversed, packBytes, sumBelow_eq_sum, sumBelow_eq_sum, ← Finset.sum_range_reflect]
  refine Finset.sum_congr rfl fun i hi => ?_
  have hi : i < c := Finset.mem_range.1 hi
  rw [show c - 1 - (c - 1 - i) = i by omega]

/-- Under either order a unit's value is a packing of its bytes. -/
theorem assemble_eq_packBytes (data : UnitValue) (c : Nat) (bord : BitVec 1) :
    ∃ b, assemble data c bord = packBytes b c := by
  obtain rfl | rfl := BitVec.eq_zero_or_eq_one bord
  · exact ⟨_, assemble_firstLow data c⟩
  · exact ⟨_, assemble_firstHigh data c⟩

/-- Settles O24: the value is a packing of the lanes, in the order received or in the reverse order. -/
theorem assemblePlacesEachByte : Obligations.AssemblePlacesEachByte := by
  intro data c hc
  refine ⟨fun i hi => ?firstLow, fun i hi => ?firstHigh, fun bord k hk => ?zeroAbove⟩
  case firstLow => rw [assemble_firstLow, extractByte_packBytes _ hc hi, lane]
  case firstHigh =>
    rw [assemble_firstHigh, extractByte_packBytes _ hc (by omega : c - 1 - i < c),
      show c - 1 - (c - 1 - i) = i by omega, lane]
  case zeroAbove =>
    obtain ⟨b, hb⟩ := assemble_eq_packBytes data c bord
    simp [hb, getLsbD_packBytes b hc, show ¬ k < 8 * c by omega]

/-! ## The text of a unit -/

/-- Digit `j` of the text is `v[63-4j:60-4j]` (R122). -/
theorem textDigit_eq (v : UnitValue) (j : Nat) : textDigit v j = v.extractLsb' (63 - 4 * j - 3) 4 := by
  rw [textDigit, show 63 - 4 * j - 3 = 60 - 4 * j by omega]

@[simp] theorem length_d16 (v : UnitValue) : (d16 v).length = 16 := by simp [d16]

theorem getElem?_d16 (v : UnitValue) {j : Nat} (hj : j < 16) :
    (d16 v)[j]? = some (v.extractLsb' (63 - 4 * j - 3) 4) := by
  simp [d16, hj, textDigit_eq]

/-- The three rendering modes in use (R123). -/
theorem hexText_whole (v : UnitValue) (c : Nat) : hexText v c 0 = d16 v := rfl
theorem hexText_received (v : UnitValue) (c : Nat) : hexText v c 1 = (d16 v).drop (16 - 2 * c) := rfl
theorem hexText_significant (v : UnitValue) (c : Nat) :
    hexText v c 2 = (d16 v).drop (min 15 (leadingZeros (d16 v))) := rfl

theorem leadingZeros_cons (d : Digit) (t : List Digit) :
    leadingZeros (d :: t) = if d = 0 then leadingZeros t + 1 else 0 := by
  rw [leadingZeros, List.takeWhile_cons, apply_ite List.length]
  simp only [beq_iff_eq]
  rfl

theorem getElem?_of_lt_leadingZeros {t : List Digit} {j : Nat} (hj : j < leadingZeros t) : t[j]? = some 0 := by
  induction t generalizing j with
  | nil => cases hj
  | cons d t ih =>
    by_cases hd : d = 0
    · rw [leadingZeros_cons, if_pos hd] at hj
      cases j with
      | zero => rw [hd, List.getElem?_cons_zero]
      | succ j => exact ih (Nat.lt_of_succ_lt_succ hj)
    · rw [leadingZeros_cons, if_neg hd] at hj
      cases hj

theorem getElem?_leadingZeros_ne (t : List Digit) : t[leadingZeros t]? ≠ some 0 := by
  induction t with
  | nil => exact nofun
  | cons d t ih =>
    rw [leadingZeros_cons]
    by_cases hd : d = 0
    · rw [if_pos hd]
      exact ih
    · rw [if_neg hd, List.getElem?_cons_zero]
      exact fun h => hd (Option.some.inj h)

/-- Settles O25: each mode drops digits from the front of `D16(v)`; mode 0b10 as many zeros as lead it, but not the last
digit. -/
theorem textRendersByMode : Obligations.TextRendersByMode := by
  intro v c hc
  refine ⟨?whole, ?received, min 15 (leadingZeros (d16 v)), min_le_left _ _, ?zeros, ?nonzero, ?significant⟩
  case whole => exact ⟨hexText_whole v c, length_d16 v, fun j hj => getElem?_d16 v hj⟩
  case received =>
    rw [hexText_received, List.length_drop, length_d16]
    exact ⟨by omega, fun j _ => List.getElem?_drop⟩
  case zeros => exact fun j hj => getElem?_of_lt_leadingZeros (lt_of_lt_of_le hj (min_le_right _ _))
  case nonzero =>
    rcases le_total 15 (leadingZeros (d16 v)) with many | few
    · exact .inl (min_eq_left many)
    · exact .inr (by rw [min_eq_right few]; exact getElem?_leadingZeros_ne _)
  case significant =>
    rw [hexText_significant, List.length_drop, length_d16]
    exact ⟨rfl, fun j _ => List.getElem?_drop⟩

/-- Outside the reserved mode a text has at most the 16 digits of the value (R123). -/
theorem length_hexText_le (v : UnitValue) (c : Nat) {rend : BitVec 2} (h : rend ≠ 3) :
    (hexText v c rend).length ≤ 16 := by
  have modes : rend = 0 ∨ rend = 1 ∨ rend = 2 := by bv_omega
  rcases modes with rfl | rfl | rfl
  · rw [hexText_whole, length_d16]
  · rw [hexText_received, List.length_drop, length_d16]
    exact Nat.sub_le _ _
  · rw [hexText_significant, List.length_drop, length_d16]
    exact Nat.sub_le _ _

/-! ## The position of a match -/

/-- `p` is the smallest position at which `pat` stands whole in the text. -/
def IsFirstOccurrence (pat t : List Digit) (p : Nat) : Prop := pat <+: t.drop p ∧ ∀ q < p, ¬ pat <+: t.drop q

theorem prefix_drop_iff (pat t : List Digit) (p : Nat) :
    pat <+: t.drop p ↔ ∀ j < pat.length, t[p + j]? = pat[j]? := by
  rw [List.prefix_iff_getElem?]
  refine forall₂_congr fun j hj => ?_
  rw [List.getElem?_drop, List.getElem?_eq_getElem hj]

theorem isFirstOccurrence_zero_iff {pat t : List Digit} (h : pat <+: t) (p : Nat) :
    IsFirstOccurrence pat t p ↔ p = 0 := by
  refine ⟨fun hp => ?_, fun hp => hp ▸ ⟨h, nofun⟩⟩
  by_contra hne
  exact hp.2 0 (Nat.pos_of_ne_zero hne) h

theorem isFirstOccurrence_cons_succ_iff {pat t : List Digit} {d : Digit} (h : ¬ pat <+: d :: t) (p : Nat) :
    IsFirstOccurrence pat (d :: t) (p + 1) ↔ IsFirstOccurrence pat t p := by
  simp only [IsFirstOccurrence, List.drop_succ_cons, Nat.forall_lt_succ_left, List.drop_zero, h, not_false_eq_true,
    true_and]

theorem firstMatch_of_prefix {pat t : List Digit} (h : pat <+: t) : firstMatch pat t = some 0 := by
  cases t with
  | nil => rw [List.prefix_nil.1 h]; rfl
  | cons d t => exact if_pos (List.isPrefixOf_iff_prefix.2 h)

theorem firstMatch_nil_of_not_prefix {pat : List Digit} (h : ¬ pat <+: []) : firstMatch pat [] = none :=
  if_neg fun empty => h (List.prefix_nil.2 (List.isEmpty_iff.1 empty))

theorem firstMatch_cons_of_not_prefix {pat t : List Digit} {d : Digit} (h : ¬ pat <+: d :: t) :
    firstMatch pat (d :: t) = (firstMatch pat t).map (· + 1) := if_neg (mt List.isPrefixOf_iff_prefix.1 h)

theorem firstMatch_eq_some_iff_of_prefix {pat t : List Digit} (h : pat <+: t) (p : Nat) :
    firstMatch pat t = some p ↔ IsFirstOccurrence pat t p := by
  rw [firstMatch_of_prefix h, isFirstOccurrence_zero_iff h, Option.some_inj, eq_comm]

theorem firstMatch_eq_some_iff (pat t : List Digit) (p : Nat) :
    firstMatch pat t = some p ↔ IsFirstOccurrence pat t p := by
  induction t generalizing p with
  | nil =>
    by_cases here : pat <+: []
    · exact firstMatch_eq_some_iff_of_prefix here p
    · rw [firstMatch_nil_of_not_prefix here]
      exact ⟨nofun, fun hp => absurd (List.drop_nil ▸ hp.1) here⟩
  | cons d t ih =>
    by_cases here : pat <+: d :: t
    · exact firstMatch_eq_some_iff_of_prefix here p
    rw [firstMatch_cons_of_not_prefix here]
    cases p with
    | zero => exact ⟨fun h => by simp at h, fun hp => absurd hp.1 here⟩
    | succ p =>
      rw [isFirstOccurrence_cons_succ_iff here, ← ih]
      simp

theorem firstMatch_eq_none_iff (pat t : List Digit) :
    firstMatch pat t = none ↔ ∀ p, ¬ IsFirstOccurrence pat t p := by
  simp only [Option.eq_none_iff_forall_ne_some, ne_eq, firstMatch_eq_some_iff]

theorem exists_isFirstOccurrence {pat t : List Digit} {p : Nat} (h : pat <+: t.drop p) :
    ∃ q, IsFirstOccurrence pat t q := by
  classical
  have occurs : ∃ q, pat <+: t.drop q := ⟨p, h⟩
  exact ⟨Nat.find occurs, Nat.find_spec occurs, fun q hq => Nat.find_min occurs hq⟩

/-- A first occurrence lies inside the text, even that of the empty pattern. -/
theorem IsFirstOccurrence.inside {pat t : List Digit} {p : Nat} (h : IsFirstOccurrence pat t p) :
    p + pat.length ≤ t.length := by
  obtain ⟨stands, least⟩ := h
  have fits : pat.length ≤ t.length - p := List.length_drop ▸ stands.length_le
  rcases Nat.eq_zero_or_pos p with rfl | hp
  · omega
  have nonempty : 0 < pat.length := by
    rw [List.length_pos_iff]
    rintro rfl
    exact least 0 hp List.nil_prefix
  omega

/-- Settles O26: `firstMatch` finds the first occurrence, and every occurrence is preceded by a first one. -/
theorem matchIsTheFirstWholeOccurrence : Obligations.MatchIsTheFirstWholeOccurrence := by
  intro pat t
  simp only [← prefix_drop_iff]
  refine ⟨fun p => ?position, ?absence⟩
  case position =>
    rw [firstMatch_eq_some_iff]
    exact ⟨fun h => ⟨⟨h.inside, h.1⟩, h.2⟩, fun h => ⟨h.1.2, h.2⟩⟩
  case absence =>
    rw [firstMatch_eq_none_iff]
    constructor
    · rintro noFirst ⟨p, -, hp⟩
      obtain ⟨q, hq⟩ := exists_isFirstOccurrence hp
      exact noFirst q hq
    · exact fun nowhere p hp => nowhere ⟨p, hp.inside, hp.1⟩

end Sys2Proof.Machine
end

section
/-! PROOFS. The unit steps: a unit is consumed exactly on request, and what SCANA, HUNT and CAPTURE do with one after
the common prologue (41_pattern_matcher.md R120, R126 to R134). -/

namespace Sys2Proof.Machine

/-! ## Each unit step's part, with the completion it ends in spelt out -/

/-- What an error completion sets (60_exceptions.md R211, R212). -/
theorem finish_error {c : Code} (h : c.isError = true) (s : State) :
    finish c s = { s with code := c, phase := .idle, flags := { s.flags with done := true, err := true } } := by
  rw [finish, complete_error _ _ h]

theorem finish_found (s : State) :
    finish .found s =
      { s with code := .found, phase := .idle, flags := { s.flags with done := true, found := true } } := by
  rw [finish, complete_foundCode]

theorem finish_frameReady (s : State) :
    finish .frameReady s =
      { s with code := .frameReady, phase := .idle, flags := { s.flags with done := true, frame := true } } := by
  rw [finish, complete_frameReady]

theorem scanaUnit_of_no_match {s : State} (h : addressMatch s = none) : scanaUnit s = scanaCap s := by
  rw [scanaUnit, h]

theorem scanaUnit_of_match {s : State} {p : Nat} (h : addressMatch s = some p) :
    scanaUnit s =
      if s.mcnt + 1 = s.nmatch then finish .found (countMatch p s) else scanaCap (countMatch p s) := by
  rw [scanaUnit, h]
  rfl

theorem scansCap_of_hunt {s : State} (h : s.phase = .hunt) :
    scansCap s = if s.acnt = s.maxatt then finish .sentTimeout s else s := by
  rw [scansCap, if_pos h]

theorem scansCap_of_capture {s : State} (h : s.phase = .capture) :
    scansCap s = if s.acnt = s.maxatt then finish .frameTimeout s else s := by
  rw [scansCap, if_neg (h ▸ nofun : s.phase ≠ .hunt)]

theorem captureUnit_of_empty {s : State} (h : s.lastcnt = 0) : captureUnit s = scansCap s := if_pos h

theorem captureUnit_of_nonempty {s : State} (h : s.lastcnt ≠ 0) :
    captureUnit s =
      if s.ccnt + 1 = s.frmk then finish .frameReady (captureOne s) else scansCap (captureOne s) := if_neg h

/-! ## Consumption (R120) -/

@[simp] theorem scanaCap_acnt (s : State) : (scanaCap s).acnt = s.acnt := by
  rcases scanaCap_cases s with ⟨-, e⟩ | ⟨-, e⟩ <;> simp [e]

@[simp] theorem scansCap_acnt (s : State) : (scansCap s).acnt = s.acnt := by
  rcases scansCap_cases s with ⟨-, -, e⟩ | ⟨-, -, e⟩ | ⟨-, e⟩ <;> simp [e]

@[simp] theorem scansCap_bufA (s : State) : (scansCap s).bufA = s.bufA := by
  rcases scansCap_cases s with ⟨-, -, e⟩ | ⟨-, -, e⟩ | ⟨-, e⟩ <;> simp [e]

theorem scanaUnit_acnt (s : State) : (scanaUnit s).acnt = s.acnt := by
  rcases scanaUnit_cases s with ⟨-, e⟩ | ⟨p, -, ⟨-, e⟩ | ⟨-, e⟩⟩ <;> simp [e, countMatch]

theorem huntUnit_acnt (s : State) : (huntUnit s).acnt = s.acnt := by
  rcases huntUnit_cases s with ⟨-, e⟩ | ⟨-, e⟩ <;> simp [e, beginCapture]

theorem captureUnit_acnt (s : State) : (captureUnit s).acnt = s.acnt := by
  rcases captureUnit_cases s with ⟨-, e⟩ | ⟨-, -, e⟩ | ⟨-, -, e⟩ <;> simp [e, captureOne]

/-- Whatever else a consumed unit does, it is one attempt (R126). -/
theorem unitStep_acnt_of_uReq {s : State} (h : uReq s = true) (data : UnitValue) (c : BitVec 4) :
    (unitStep data c s).acnt = s.acnt + 1 := by
  rcases unitStep_cases data c s with ⟨h', -⟩ | ⟨-, -, e⟩ | ⟨-, -, e⟩ | ⟨-, -, e⟩ | ⟨-, -, e⟩
  · rw [h] at h'
    cases h'
  · rw [e, finish_acnt]
  · rw [e, scanaUnit_acnt, recordUnit_acnt]
  · rw [e, huntUnit_acnt, recordUnit_acnt]
  · rw [e, captureUnit_acnt, recordUnit_acnt]

theorem unitStep_of_not_uReq {s : State} (h : uReq s = false) (data : UnitValue) (c : BitVec 4) :
    unitStep data c s = s := by
  rw [unitStep, h, if_neg Bool.false_ne_true]

/-- Settles O29: `u_req` alone decides whether the offered unit is consumed. -/
theorem unitsWaitForTheRequest : Obligations.UnitsWaitForTheRequest := by
  intro s data c hmeets
  refine ⟨uReq_iff s, rfl, fun requested => ?consumed, fun waiting => ?ignored⟩
  case consumed => exact ⟨_, step_unitOffer hmeets, unitStep_acnt_of_uReq (s := s.rest) requested data c⟩
  case ignored => rw [step_unitOffer hmeets, unitStep_of_not_uReq (s := s.rest) waiting]

/-! ## The step of a unit within the read width -/

section
variable {s : State} {data : UnitValue} {c : BitVec 4} (hmeets : s.meets (.unitOffer data c))
  (hc : c.toNat ≤ s.uw.toNat)
include hmeets hc

theorem step_unit_of_scana (hp : s.phase = .scana) : step s = .next (scanaUnit (recordUnit data c s.rest)) := by
  rw [step_unitOffer hmeets, unitStep, if_pos ((uReq_iff s.rest).2 (.inl hp)), rest_uw, if_neg (Nat.not_lt.2 hc),
    rest_phase, hp]

theorem step_unit_of_hunt (hp : s.phase = .hunt) : step s = .next (huntUnit (recordUnit data c s.rest)) := by
  rw [step_unitOffer hmeets, unitStep, if_pos ((uReq_iff s.rest).2 (.inr (.inl hp))), rest_uw, if_neg (Nat.not_lt.2 hc),
    rest_phase, hp]

theorem step_unit_of_capture (hp : s.phase = .capture) :
    step s = .next (captureUnit (recordUnit data c s.rest)) := by
  rw [step_unitOffer hmeets, unitStep, if_pos ((uReq_iff s.rest).2 (.inr (.inr hp))), rest_uw, if_neg (Nat.not_lt.2 hc),
    rest_phase, hp]

end

/-! ## SCANA (R128, R129) -/

theorem addressMatch_recordUnit (data : UnitValue) (c : BitVec 4) (s : State) :
    addressMatch (recordUnit data c s) =
      if c = 0 then none else firstMatch s.pattern (hexText (assemble data c.toNat s.bord) c.toNat s.rend) := by
  rw [addressMatch, recordUnit_last]
  rfl

theorem length_pattern (s : State) : s.pattern.length = min s.plen.toNat 16 := by simp [State.pattern]

/-- A legal pattern is not empty, so it stands nowhere beyond the last digit of a text (R124, R127). -/
theorem match_lt_of_configured {s : State} (h : ScanaConfigured s) {v : UnitValue} {c p : Nat}
    (hp : firstMatch s.pattern (hexText v c s.rend) = some p) : p < 16 := by
  obtain ⟨-, -, hlen, -, hrend, -, -⟩ := h
  have inside := ((firstMatch_eq_some_iff _ _ p).1 hp).inside
  have textBound := length_hexText_le v c hrend
  rw [length_pattern] at inside
  omega

/-- Settles O31: the match decides the count, then the count decides before the attempt cap does. -/
theorem scanaUnitStepCountsMatches : Obligations.ScanaUnitStepCountsMatches := by
  intro s data c hmeets hp hconf hc v r timeout
  have stepped : step s = .next (scanaUnit r) := step_unit_of_scana hmeets hc hp
  have matched : addressMatch r = if c = 0 then none else firstMatch s.pattern (hexText v c.toNat s.rend) :=
    addressMatch_recordUnit data c s.rest
  have cap : ∀ u : State, scanaCap u = if u.acnt = u.maxatt then timeout u else u := fun u => by
    rw [scanaCap, finish_error rfl]
  refine ⟨fun noMatch => ?unmatched, fun nonempty p atP => ⟨match_lt_of_configured hconf atP, ?matching⟩⟩
  case unmatched =>
    have absent : addressMatch r = none := by
      rw [matched]
      exact ite_eq_left_iff.2 noMatch.resolve_left
    rw [stepped, scanaUnit_of_no_match absent, cap]
  case matching =>
    have present : addressMatch r = some p := by rw [matched, if_neg nonempty, atP]
    rw [stepped, scanaUnit_of_match present, cap, finish_found]
    rfl

/-! ## HUNT (R132, R134) -/

theorem huntUnit_of_sentinel {s : State} (h : s.lastcnt ≠ 0 ∧ s.last = s.sent) :
    huntUnit s =
      if s.acnt = s.maxatt then finish .frameTimeout (beginCapture s) else beginCapture s := by
  have captures : huntUnit s = scansCap (beginCapture s) := if_pos h
  rw [captures, scansCap_of_capture (s := beginCapture s) rfl]
  rfl

theorem huntUnit_of_other {s : State} (h : ¬ (s.lastcnt ≠ 0 ∧ s.last = s.sent)) (hp : s.phase = .hunt) :
    huntUnit s = if s.acnt = s.maxatt then finish .sentTimeout s else s := by
  have stays : huntUnit s = scansCap s := if_neg h
  rw [stays, scansCap_of_hunt hp]

/-- Settles O32: the sentinel test decides the phase, and the phase decides the timeout. -/
theorem huntUnitStepSeeksTheSentinel : Obligations.HuntUnitStepSeeksTheSentinel := by
  intro s data c hmeets hp hc v r
  have stepped : step s = .next (huntUnit r) := step_unit_of_hunt hmeets hc hp
  have isSentinel : (r.lastcnt ≠ 0 ∧ r.last = r.sent) = (c ≠ 0 ∧ v = s.sentHi ++ s.sentLo) := by
    rw [show r.last = v from recordUnit_last data c s.rest]
    rfl
  rw [← isSentinel, stepped]
  refine ⟨fun sentinel => ⟨_, rfl, ?cleared, ?captures⟩, fun other => ?hunts⟩
  case cleared =>
    intro i _
    rw [huntUnit_of_sentinel sentinel]
    split <;> exact digitAt_clearedBuffer i
  case captures =>
    rw [huntUnit_of_sentinel sentinel, finish_error rfl]
    split <;> rfl
  case hunts => rw [huntUnit_of_other other hp, finish_error rfl]

/-! ## CAPTURE (R133, R134) -/

theorem captureUnit_bufA {s : State} (h : s.lastcnt ≠ 0) : (captureUnit s).bufA = (captureOne s).bufA := by
  rw [captureUnit_of_nonempty h, apply_ite State.bufA, finish_bufA, scansCap_bufA, ite_self]

/-- The captured unit's 16 digits follow those of the units before it; no other digit changes. -/
theorem digitAt_captureOne (s : State) {i : Nat} (hi : i < 128) :
    digitAt (captureOne s).bufA i =
      if 16 * s.ccnt.toNat ≤ i ∧ i < 16 * s.ccnt.toNat + 16 then textDigit s.last (i - 16 * s.ccnt.toNat)
      else digitAt s.bufA i := by
  rw [captureOne, digitAt_writeDigits]
  simp only [hi, and_true]

theorem captureUnit_of_nonempty_of_capture {s : State} (h : s.lastcnt ≠ 0) (hp : s.phase = .capture) :
    captureUnit s =
      if s.ccnt + 1 = s.frmk then finish .frameReady (captureOne s)
      else if s.acnt = s.maxatt then finish .frameTimeout (captureOne s) else captureOne s := by
  rw [captureUnit_of_nonempty h, scansCap_of_capture (s := captureOne s) hp]
  rfl

/-- Settles O33: a non-empty unit is captured, then the frame's length decides before the attempt cap does. -/
theorem captureUnitStepFillsTheFrame : Obligations.CaptureUnitStepFillsTheFrame := by
  intro s data c hmeets hp hc hlt hle v r timeout
  have stepped : step s = .next (captureUnit r) := step_unit_of_capture hmeets hc hp
  have recordedValue : r.last = v := recordUnit_last data c s.rest
  have sameCount : r.ccnt = s.ccnt := rfl
  rw [stepped]
  refine ⟨fun empty => ?skipped, fun nonempty => ⟨_, rfl, ?filled, ?kept, ?counted⟩⟩
  case skipped => rw [captureUnit_of_empty empty, scansCap_of_capture (s := r) hp, finish_error rfl]
  case filled =>
    intro j hj
    rw [captureUnit_bufA nonempty, digitAt_captureOne r (by omega), sameCount, if_pos (by omega),
      Nat.add_sub_cancel_left, recordedValue, textDigit_eq]
  case kept =>
    intro i hi outside
    rw [captureUnit_bufA nonempty, digitAt_captureOne r hi, sameCount, if_neg (by omega)]
  case counted =>
    rw [captureUnit_of_nonempty_of_capture (s := r) nonempty hp, finish_frameReady, finish_error rfl]
    split <;> [skip; split] <;> rfl

end Sys2Proof.Machine
end

section
/-! PROOFS. REORD: the walk's closed form, reversal as an involution, and the legal ranges
(42_endian_reorder.md R160 to R163). -/

namespace Sys2Proof.Machine

/-! ## The walk, byte by byte (R160, R162) -/

/-- The source index of output digit `k` of a legal range that ends at `hi`: the bytes run backwards from `hi`, and the
two digits of each keep their order (R162). -/
def reordIndex (hi k : Nat) : Nat := if k % 2 = 0 then hi - 1 - k else hi + 1 - k

theorem reordIndex_of_even {k : Nat} (h : k % 2 = 0) (hi : Nat) : reordIndex hi k = hi - 1 - k := if_pos h

theorem reordIndex_of_odd {k : Nat} (h : k % 2 = 1) (hi : Nat) : reordIndex hi k = hi + 1 - k :=
  if_neg (by omega)

/-- Reversing over the reversed range `0..hi - lo` counts up from `lo` (R163). -/
theorem reordIndex_reordIndex {hi lo i : Nat} (hlo : lo % 2 = 0) (hhi : hi % 2 = 1) (hlt : lo < hi)
    (inside : i ≤ hi - lo) :
    reordIndex hi (reordIndex (hi - lo) i) = lo + i := by
  rcases Nat.mod_two_eq_zero_or_one i with even | odd
  · rw [reordIndex_of_even even, reordIndex_of_even (by omega)]
    omega
  · rw [reordIndex_of_odd odd, reordIndex_of_odd (by omega)]
    omega

theorem reordIndex_le {hi lo i : Nat} (hlo : lo % 2 = 0) (hhi : hi % 2 = 1) (inside : i ≤ hi - lo) :
    reordIndex (hi - lo) i ≤ hi - lo := by
  rcases Nat.mod_two_eq_zero_or_one i with even | odd
  · rw [reordIndex_of_even even]
    omega
  · rw [reordIndex_of_odd odd]
    omega

/-- Two steps of the walk over a range of whole bytes: the last byte's odd digit goes to the high slot, its even digit
to the low slot. -/
theorem reordWalk_byte (src : Buffer) {lo : Nat} (hlo : lo % 2 = 0) (m loSlot hiSlot : Nat) (t : Buffer) :
    reordWalk src lo (2 * m + 2) loSlot hiSlot t =
      reordWalk src lo (2 * m) (loSlot + 2) (hiSlot + 2)
        ((t.setIfInBounds hiSlot (digitAt src (lo + 2 * m + 1))).setIfInBounds loSlot (digitAt src (lo + 2 * m))) := by
  rw [reordWalk, if_pos (by omega), reordWalk, if_neg (by omega), Nat.add_assoc lo (2 * m) 1]

/-- The walk over `m` bytes fills the `2 * m` slots from an even slot `c` on. A byte walked moves `c` up by as much as it
takes off the end of the range, so `c + lo + 2 * m - 1` is the same index throughout. -/
theorem digitAt_reordWalk (src : Buffer) {lo : Nat} (hlo : lo % 2 = 0) (m : Nat) {c k : Nat} (hc : c % 2 = 0)
    (hk : k < 128) (t : Buffer) :
    digitAt (reordWalk src lo (2 * m) c (c + 1) t) k =
      if c ≤ k ∧ k < c + 2 * m then digitAt src (reordIndex (c + lo + 2 * m - 1) k) else digitAt t k := by
  induction m generalizing c t with
  | zero => rw [if_neg (by omega)]; rfl
  | succ m ih =>
    have sameEnd : c + 2 + lo + 2 * m - 1 = c + lo + 2 * (m + 1) - 1 := by omega
    rw [Nat.mul_succ, reordWalk_byte src hlo, ih (by omega), digitAt_set, digitAt_set, ← Nat.mul_succ, sameEnd]
    by_cases low : c = k
    · subst low
      rw [if_neg (by omega), if_pos ⟨rfl, hk⟩, if_pos (by omega), reordIndex_of_even hc]
      congr 1
      omega
    by_cases high : c + 1 = k
    · subst high
      rw [if_neg (by omega), if_neg (by omega), if_pos ⟨rfl, hk⟩, if_pos (by omega), reordIndex_of_odd (by omega)]
      congr 1
      omega
    · have slotsLeft : (c + 2 ≤ k ∧ k < c + 2 + 2 * m) ↔ (c ≤ k ∧ k < c + 2 * (m + 1)) := by omega
      simp only [low, high, false_and, if_false, slotsLeft]

/-- The output slots of a legal range, once the walk is over. -/
theorem digitAt_reordSlots (src : Buffer) {hi lo k : Nat} (hlo : lo % 2 = 0) (hhi : hi % 2 = 1) (hlt : lo < hi)
    (hk : k < hi - lo + 1) (hk' : k < 128) :
    digitAt (reordSlots src hi lo) k = digitAt src (reordIndex hi k) := by
  obtain ⟨m, hm⟩ : ∃ m, hi - lo + 1 = 2 * m := ⟨(hi - lo + 1) / 2, by omega⟩
  rw [reordSlots, hm, digitAt_reordWalk src hlo m rfl hk', if_pos (by omega), show 0 + lo + 2 * m - 1 = hi by omega]

/-! ## REORD at dispatch -/

theorem legalReord_iff (hi lo : Nat) :
    legalReord hi lo = true ↔ lo % 2 = 0 ∧ hi % 2 = 1 ∧ lo < hi ∧ hi ≤ 127 := by
  rw [legalReord, decide_eq_true_iff]

/-- The destination after REORD over `hi..lo`. -/
def reordered (src dst : Buffer) (hi lo : Nat) : Buffer :=
  writeDigits dst 0 (hi - lo + 1) (digitAt (reordSlots src hi lo))

/-- The state after a legal REORD (R160). -/
def afterReord (src dst : BufSel) (hi lo : Nat) (s : State) : State :=
  finish .ok (s.setBuf dst (reordered (s.buf src) (s.buf dst) hi lo))

theorem exec_reord_of_legal {hi lo : Nat} (h : legalReord hi lo = true) (src dst : BufSel) (s : State) :
    exec (.reord src dst hi lo) s = .next (afterReord src dst hi lo s) := if_pos h

theorem exec_reord_of_illegal {hi lo : Nat} (h : ¬ legalReord hi lo = true) (src dst : BufSel) (s : State) :
    exec (.reord src dst hi lo) s = .next (finish .range s) := if_neg h

/-- R162 with one index for both digits of a byte: every digit of the destination after a legal REORD. -/
theorem digitAt_reordered (src dst : Buffer) {hi lo : Nat} (h : legalReord hi lo = true) (k : Nat) :
    digitAt (reordered src dst hi lo) k =
      if k < hi - lo + 1 then digitAt src (reordIndex hi k) else digitAt dst k := by
  obtain ⟨hlo, hhi, hlt, hle⟩ := (legalReord_iff hi lo).1 h
  rw [reordered, digitAt_writeDigits]
  by_cases inside : k < hi - lo + 1
  · rw [if_pos (by omega), if_pos inside, digitAt_reordSlots src hlo hhi hlt inside (by omega)]
  · rw [if_neg (by omega), if_neg inside]

/-- Every digit of the destination, which may be the source itself. -/
theorem digitAt_afterReord (src dst : BufSel) {hi lo : Nat} (h : legalReord hi lo = true) (s : State) (k : Nat) :
    digitAt ((afterReord src dst hi lo s).buf dst) k =
      if k < hi - lo + 1 then digitAt (s.buf src) (reordIndex hi k) else digitAt (s.buf dst) k := by
  rw [afterReord, finish_buf, setBuf_buf, if_pos rfl, digitAt_reordered _ _ h]

theorem afterReord_buf_of_ne (src : BufSel) {dst e : BufSel} (h : e ≠ dst) (hi lo : Nat) (s : State) :
    (afterReord src dst hi lo s).buf e = s.buf e := by
  rw [afterReord, finish_buf, setBuf_buf, if_neg h]

/-- Buffers apart, writing one and completing with OK sets CODE, PHASE and DONE only (R212). -/
theorem finish_ok_setBuf_frame (d : BufSel) (x : Buffer) (s : State) :
    { finish .ok (s.setBuf d x) with bufA := s.bufA, bufB := s.bufB } =
      { s with code := .ok, phase := .idle, flags := { s.flags with done := true } } := by
  rw [finish, complete_ok]
  cases d <;> rfl

/-! ## The three statements -/

/-- Settles O36: the closed form of the destination, read at the even and at the odd digits. -/
theorem reordReversesTheBytes : Obligations.ReordReversesTheBytes := by
  intro s src dst hi lo hlo hhi hlt hle
  have legal : legalReord hi lo = true := (legalReord_iff hi lo).2 ⟨hlo, hhi, hlt, hle⟩
  refine ⟨_, exec_reord_of_legal legal src dst s, fun k hk => ⟨?evenDigit, ?oddDigit⟩, fun i outside => ?kept,
    fun e other => afterReord_buf_of_ne src other hi lo s, finish_ok_setBuf_frame dst _ s⟩
  case evenDigit => rw [digitAt_afterReord _ _ legal, if_pos hk, reordIndex_of_even (by omega)]
  case oddDigit =>
    rw [digitAt_afterReord _ _ legal, if_pos (by omega), reordIndex_of_odd (by omega), Nat.add_sub_add_right]
  case kept => rw [digitAt_afterReord _ _ legal, if_neg (by omega)]

/-- Settles O38: the two reversals' indices compose to counting up from `lo`. -/
theorem reordTwiceRestoresTheRange : Obligations.ReordTwiceRestoresTheRange := by
  intro s src mid dst hi lo hlo hhi hlt hle
  have first : legalReord hi lo = true := (legalReord_iff hi lo).2 ⟨hlo, hhi, hlt, hle⟩
  have second : legalReord (hi - lo) 0 = true := (legalReord_iff (hi - lo) 0).2 (by omega)
  refine ⟨_, _, exec_reord_of_legal first src mid s, exec_reord_of_legal second mid dst _, fun i inside => ?_⟩
  have stillInside : reordIndex (hi - lo) i ≤ hi - lo := reordIndex_le hlo hhi (by omega)
  rw [digitAt_afterReord _ _ second, if_pos (by omega), digitAt_afterReord _ _ first, if_pos (by omega),
    reordIndex_reordIndex hlo hhi hlt (by omega)]

/-- Settles O37: for 7-bit operands the legality check is exactly whole bytes, and each of its outcomes has its
completion. -/
theorem reordRefusesOtherRanges : Obligations.ReordRefusesOtherRanges := by
  intro s src dst hi lo hle _
  have legal_iff_wholeBytes : legalReord hi lo = true ↔ lo % 2 = 0 ∧ hi % 2 = 1 ∧ lo < hi := by
    simp only [legalReord_iff, hle, and_true]
  rw [← legal_iff_wholeBytes]
  refine ⟨fun legal => ⟨_, exec_reord_of_legal legal src dst s, finish_code _ _⟩, fun illegal => ?refused⟩
  rw [exec_reord_of_illegal illegal, finish_error rfl]

end Sys2Proof.Machine
end

section
/-! PROOFS. REMAP: the index of a group's digit, every digit of the destination, and the legal operands
(43_field_remap.md R175 to R177). -/

namespace Sys2Proof.Machine

/-! ## The permutation of one group (R175, R177) -/

/-- R177's table is R175's formula, digit by digit of a group. -/
theorem permTable_eq_map_groupPerm :
    [2, 3, 0, 1, 6, 7, 4, 5, 10, 11, 8, 9] = (List.range Config.groupDigits).map groupPerm := by decide

/-- The table has an entry for the digits of a group only, and there it is the formula's. -/
theorem groupPerm_of_permTable {j p : Nat} (h : [2, 3, 0, 1, 6, 7, 4, 5, 10, 11, 8, 9][j]? = some p) :
    j < 12 ∧ groupPerm j = p := by
  rw [permTable_eq_map_groupPerm, List.getElem?_map, Option.map_eq_some_iff] at h
  obtain ⟨i, atJ, permuted⟩ := h
  obtain ⟨inGroup, rfl⟩ := List.getElem?_eq_some_iff.1 atJ
  rw [List.length_range] at inGroup
  rw [List.getElem_range] at permuted
  exact ⟨inGroup, permuted⟩

/-- Digit `j` of group `n` comes from digit `perm(j)` of the same group (R175). -/
theorem remapIndex_group (base n : Nat) {j : Nat} (hj : j < 12) :
    remapIndex base (base + 12 * n + j) = base + 12 * n + groupPerm j := by
  have fromBase : base + 12 * n + j - base = 12 * n + j := by omega
  have group : (12 * n + j) / 12 = n := by omega
  have digit : (12 * n + j) % 12 = j := by omega
  rw [remapIndex, fromBase, group, digit]

/-! ## REMAP at dispatch -/

theorem legalRemap_iff (base g : Nat) : legalRemap base g = true ↔ 1 ≤ g ∧ base + 12 * g ≤ 128 := by
  rw [legalRemap, decide_eq_true_iff]

/-- The destination after REMAP over `g` groups from digit `base` on. -/
def remapped (src dst : Buffer) (base g : Nat) : Buffer :=
  writeDigits dst base (12 * g) fun k => digitAt src (remapIndex base k)

/-- The state after a legal REMAP (R175). -/
def afterRemap (src dst : BufSel) (base g : Nat) (s : State) : State :=
  finish .ok (s.setBuf dst (remapped (s.buf src) (s.buf dst) base g))

theorem exec_remap_of_legal {base g : Nat} (h : legalRemap base g = true) (src dst : BufSel) (s : State) :
    exec (.remap src dst base g) s = .next (afterRemap src dst base g s) := if_pos h

theorem exec_remap_of_illegal {base g : Nat} (h : ¬ legalRemap base g = true) (src dst : BufSel) (s : State) :
    exec (.remap src dst base g) s = .next (finish .range s) := if_neg h

/-- Legal groups end inside the buffer, so every digit of theirs is written, and no other. -/
theorem digitAt_remapped (src dst : Buffer) {base g : Nat} (h : legalRemap base g = true) (k : Nat) :
    digitAt (remapped src dst base g) k =
      if base ≤ k ∧ k < base + 12 * g then digitAt src (remapIndex base k) else digitAt dst k := by
  obtain ⟨-, fits⟩ := (legalRemap_iff base g).1 h
  have insideBuffer : (base ≤ k ∧ k < base + 12 * g ∧ k < 128) ↔ (base ≤ k ∧ k < base + 12 * g) := by omega
  rw [remapped, digitAt_writeDigits]
  simp only [insideBuffer]

/-- Every digit of the destination, which may be the source itself. -/
theorem digitAt_afterRemap (src dst : BufSel) {base g : Nat} (h : legalRemap base g = true) (s : State) (k : Nat) :
    digitAt ((afterRemap src dst base g s).buf dst) k =
      if base ≤ k ∧ k < base + 12 * g then digitAt (s.buf src) (remapIndex base k) else digitAt (s.buf dst) k := by
  rw [afterRemap, finish_buf, setBuf_buf, if_pos rfl, digitAt_remapped _ _ h]

theorem afterRemap_buf_of_ne (src : BufSel) {dst e : BufSel} (h : e ≠ dst) (base g : Nat) (s : State) :
    (afterRemap src dst base g s).buf e = s.buf e := by
  rw [afterRemap, finish_buf, setBuf_buf, if_neg h]

/-! ## The two statements -/

/-- Settles O39: every digit of the destination, read at the digits of a group and outside the groups. -/
theorem remapPermutesEachGroup : Obligations.RemapPermutesEachGroup := by
  intro s src dst base g atLeastOne fits
  have legal : legalRemap base g = true := (legalRemap_iff base g).2 ⟨atLeastOne, fits⟩
  refine ⟨_, exec_remap_of_legal legal src dst s, fun n hn j p inTable => ?groupDigit, fun i outside => ?kept,
    fun e other => afterRemap_buf_of_ne src other base g s, finish_ok_setBuf_frame dst _ s⟩
  case groupDigit =>
    obtain ⟨inGroup, rfl⟩ := groupPerm_of_permTable inTable
    rw [digitAt_afterRemap _ _ legal, if_pos (by omega), remapIndex_group base n inGroup]
  case kept => rw [digitAt_afterRemap _ _ legal, if_neg (by omega)]

/-- Settles O40: the legality check is R176's condition, and each of its outcomes has its completion. -/
theorem remapRefusesGroupsOutsideTheBuffer : Obligations.RemapRefusesGroupsOutsideTheBuffer := by
  intro s src dst base g
  rw [← legalRemap_iff]
  refine ⟨fun legal => ⟨_, exec_remap_of_legal legal src dst s, finish_code _ _⟩, fun illegal => ?refused⟩
  rw [exec_remap_of_illegal illegal, finish_error rfl]

end Sys2Proof.Machine
end

section
/-! PROOFS. CVT: the swapped field as a number, the arithmetic shift as a floor division, and the legal offsets
(44_convert_clear.md R190 to R192). -/

namespace Sys2Proof.Machine

/-! ## The field with its bytes swapped (R190, step (a)) -/

theorem toNat_append_eq_mul_add {m n : Nat} (x : BitVec m) (y : BitVec n) :
    (x ++ y).toNat = 2 ^ n * x.toNat + y.toNat := by
  rw [BitVec.toNat_append, ← Nat.shiftLeft_add_eq_or_of_lt y.isLt, Nat.shiftLeft_eq, Nat.mul_comm]

theorem swapBytes_append (hi lo : BitVec 8) : swapBytes (hi ++ lo) = lo ++ hi := by
  rw [swapBytes, BitVec.extractLsb'_append_eq_right, BitVec.extractLsb'_append_eq_left]

/-- A field is its high byte followed by its low byte. -/
theorem rawField_eq_bytes (b : Buffer) (off : Nat) :
    rawField b off = (digitAt b off ++ digitAt b (off + 1)) ++ (digitAt b (off + 2) ++ digitAt b (off + 3)) := by
  rw [BitVec.append_assoc', BitVec.cast_eq, rawField]

/-- The swapped field as a number: the last two digits are its high byte. -/
theorem swapBytes_rawField (b : Buffer) (off : Nat) :
    swapBytes (rawField b off) =
      BitVec.ofNat 16 (256 * (16 * (digitAt b (off + 2)).toNat + (digitAt b (off + 3)).toNat) +
        (16 * (digitAt b off).toNat + (digitAt b (off + 1)).toNat)) := by
  rw [rawField_eq_bytes, swapBytes_append, ← BitVec.setWidth_eq (_ ++ _), ← BitVec.ofNat_toNat]
  simp only [toNat_append_eq_mul_add]
  rfl

/-! ## The arithmetic shift (R190, step (b), and R192) -/

theorem toInt_calibrationShift (sw : BitVec 16) : (calibrationShift sw).toInt = sw.toInt.fdiv 4 := by
  rw [calibrationShift, BitVec.toInt_sshiftRight, BitVec.toInt_signExtend_of_le (by decide),
    Int.shiftRight_eq_div_pow, Int.fdiv_eq_ediv_of_nonneg _ (by decide)]
  rfl

/-- The result is a 14-bit two's-complement value (R190). -/
theorem toInt_calibrationShift_bounds (sw : BitVec 16) :
    -8192 ≤ (calibrationShift sw).toInt ∧ (calibrationShift sw).toInt ≤ 8191 := by
  have least : -2 ^ 15 ≤ sw.toInt := sw.le_toInt
  have greatest : sw.toInt < 2 ^ 15 := sw.toInt_lt
  rw [toInt_calibrationShift, Int.fdiv_eq_ediv_of_nonneg _ (by decide)]
  omega

/-! ## CVT at dispatch -/

theorem legalCvt_iff (off : Nat) : legalCvt off = true ↔ off ≤ 124 := by
  rw [legalCvt, decide_eq_true_iff]
  omega

/-- The state after a legal CVT (R190). -/
def afterCvt (src : BufSel) (off : Nat) (s : State) : State :=
  finish .ok { s with res := calibrationShift (swapBytes (rawField (s.buf src) off)) }

theorem exec_cvt_of_legal {off : Nat} (h : legalCvt off = true) (src : BufSel) (s : State) :
    exec (.cvt src off) s = .next (afterCvt src off s) := if_pos h

theorem afterCvt_res (src : BufSel) (off : Nat) (s : State) :
    (afterCvt src off s).res = calibrationShift (swapBytes (rawField (s.buf src) off)) := rfl

/-- RES apart, a legal CVT sets CODE, PHASE and DONE only (R190, 60_exceptions.md R212). -/
theorem afterCvt_frame (src : BufSel) (off : Nat) (s : State) :
    { afterCvt src off s with res := s.res } =
      { s with code := .ok, phase := .idle, flags := { s.flags with done := true } } := by
  rw [afterCvt, finish, complete_ok]

/-- Settles O43: the swapped field as a number, then the shift as a floor division. -/
theorem cvtSwapsAndShifts : Obligations.CvtSwapsAndShifts := by
  intro s src off inside d
  have legal : legalCvt off = true := (legalCvt_iff off).2 inside
  have bounds := toInt_calibrationShift_bounds (swapBytes (rawField (s.buf src) off))
  refine ⟨_, exec_cvt_of_legal legal src s, ?quotient, bounds.1, bounds.2, afterCvt_frame src off s⟩
  rw [afterCvt_res, toInt_calibrationShift, swapBytes_rawField]
  rfl

end Sys2Proof.Machine
end

section
/-! PROOFS. The encoder and the decoder undo each other (30_encoding.md R89 to R95). -/

namespace Sys2Proof

open Laws.EncodeFits (rowOf)

/-! ## Decoding what the encoder writes -/

/-- OP of the row a command belongs to (30_encoding.md R91). -/
def opOf : Instr → Digit
  | .nop => 0x0
  | .scana => 0x1
  | .scans => 0x2
  | .abort => 0x3
  | .reord _ _ _ _ => 0x4
  | .remap _ _ _ _ => 0x5
  | .cvt _ _ => 0x6
  | .clr _ => 0x7

theorem encode_fits (i : Instr) : (rowOf i).fits (encode i) = true := by
  cases i with
  | nop => exact Laws.EncodeFits.nop
  | scana => exact Laws.EncodeFits.scana
  | scans => exact Laws.EncodeFits.scans
  | abort => exact Laws.EncodeFits.abort
  | reord src dst hi lo => exact Laws.EncodeFits.reord src dst hi lo
  | remap src dst base groups => exact Laws.EncodeFits.remap src dst base groups
  | cvt src off => exact Laws.EncodeFits.cvt src off
  | clr src => exact Laws.EncodeFits.clr src

theorem opField_encode (i : Instr) : opField (encode i) = opOf i := by
  cases i <;> exact opField_cwWord _ _ _ _ _

theorem fitsField_iff (n : Nat) : fitsField n = true ↔ n < 128 := decide_eq_true_iff

theorem toNat_ofNat_of_fitsField {n : Nat} (h : fitsField n = true) : (BitVec.ofNat 7 n).toNat = n :=
  Nat.mod_eq_of_lt ((fitsField_iff n).1 h)

/-- The row that OP selects gives the encoded command back: no operand that fits its field loses a bit. -/
theorem rowCommands_encode {i : Instr} (h : i.wellFormed = true) :
    (rowCommands (encode i))[(opOf i).toNat]? = some (rowOf i, i) := by
  cases i with
  | nop | scana | scans | abort => rfl
  | reord src dst hi lo =>
    obtain ⟨hhi, hlo⟩ := Bool.and_eq_true_iff.1 h
    simp [rowCommands, encode, opOf, rowOf, toNat_ofNat_of_fitsField hhi, toNat_ofNat_of_fitsField hlo,
      -BitVec.toNat_ofNat]
  | remap src dst base groups =>
    obtain ⟨hbase, hgroups⟩ := Bool.and_eq_true_iff.1 h
    simp [rowCommands, encode, opOf, rowOf, toNat_ofNat_of_fitsField hbase, toNat_ofNat_of_fitsField hgroups,
      -BitVec.toNat_ofNat]
  | cvt src off =>
    simp [rowCommands, encode, opOf, rowOf, toNat_ofNat_of_fitsField (n := off) h, -BitVec.toNat_ofNat]
  | clr src => simp [rowCommands, encode, opOf, rowOf]

/-- Settles O11: OP selects the command's own row, which its word fits. -/
theorem encodedCommandDecodesToItself : Obligations.EncodedCommandDecodesToItself := by
  intro i wellFormed
  have selects : decode (encode i) = (rowOf i).select (encode i) i :=
    decode_of_row (rowCommands_encode wellFormed) (congrArg BitVec.toNat (opField_encode i))
  rw [selects, select_of_fits (beq_iff_eq.1 (encode_fits i))]

/-- Settles O14: each example is the word the encoder writes for its command. -/
theorem writtenWordsDecode : Obligations.WrittenWordsDecode := by
  have decodes {i : Instr} {w : Word} (written : encode i = w) (wellFormed : i.wellFormed = true) :
      decode w = .ok i := written ▸ encodedCommandDecodesToItself i wellFormed
  exact ⟨decodes rfl rfl, decodes rfl rfl, decodes rfl rfl, decodes rfl rfl, decodes rfl rfl, decodes rfl rfl,
    decodes rfl rfl, decodes rfl rfl⟩

/-! ## Encoding what the decoder reads -/

theorem eq_ok_of_select {r : OpcodeRow} {w : Word} {i j : Instr} (h : r.select w i = .ok j) :
    r.fits w = true ∧ i = j := by
  unfold OpcodeRow.select at h
  split at h
  next fits => exact ⟨fits, Except.ok.inj h⟩
  next => cases h

/-- A word decodes through the row its OP selects only, and only if it fits the row (R92). -/
theorem row_of_decode {w : Word} {i : Instr} (h : decode w = .ok i) :
    ∃ r : OpcodeRow, (r, i) ∈ rowCommands w ∧ r.fits w = true := by
  by_cases legalOp : (opField w).toNat < 8
  · obtain ⟨⟨r, j⟩, hrow⟩ : ∃ x, (rowCommands w)[(opField w).toNat]? = some x :=
      ⟨_, List.getElem?_eq_getElem (l := rowCommands w) legalOp⟩
    rw [decode_of_row hrow rfl] at h
    obtain ⟨fits, rfl⟩ := eq_ok_of_select h
    exact ⟨r, List.mem_of_getElem? hrow, fits⟩
  · rw [decode_of_reservedOpcode (Nat.not_lt.1 legalOp)] at h
    cases h

/-- Two words of one row that agree on the bits its mask leaves free are the same word. -/
theorem eq_of_fits {r : OpcodeRow} {w w' : Word} (h : r.fits w = true) (h' : r.fits w' = true)
    (free : ∀ j < 32, r.mask.getLsbD j = false → w.getLsbD j = w'.getLsbD j) : w = w' := by
  have fixed : w &&& r.mask = w' &&& r.mask := (beq_iff_eq.1 h).trans (beq_iff_eq.1 h').symm
  apply BitVec.eq_of_getLsbD_eq
  intro j hj
  cases masked : r.mask.getLsbD j with
  | true => simpa [masked] using congrArg (·.getLsbD j) fixed
  | false => exact free j hj masked

theorem getLsbD_srcField_bit (w : Word) : (srcField w).bit.getLsbD 0 = w.getLsbD 4 := by
  unfold srcField; cases w.getLsbD 4 <;> rfl

theorem getLsbD_dstField_bit (w : Word) : (dstField w).bit.getLsbD 0 = w.getLsbD 5 := by
  unfold dstField; cases w.getLsbD 5 <;> rfl

theorem ofNat_faField (w : Word) : BitVec.ofNat 7 (faField w) = w.extractLsb' 8 7 := by
  rw [faField, BitVec.ofNat_toNat, BitVec.setWidth_eq]

theorem ofNat_fbField (w : Word) : BitVec.ofNat 7 (fbField w) = w.extractLsb' 16 7 := by
  rw [fbField, BitVec.ofNat_toNat, BitVec.setWidth_eq]


theorem fitsField_faField (w : Word) : fitsField (faField w) = true := (fitsField_iff _).2 (BitVec.isLt _)
theorem fitsField_fbField (w : Word) : fitsField (fbField w) = true := (fitsField_iff _).2 (BitVec.isLt _)

/-! The bits of a CW word's four operand fields. -/

section
variable (fb fa : BitVec 7) (d s : BitVec 1) (op : Digit)

theorem getLsbD_cwWord_src : (cwWord fb fa d s op).getLsbD 4 = s.getLsbD 0 := cwWord_getLsbD fb fa d s op 4

theorem getLsbD_cwWord_dst : (cwWord fb fa d s op).getLsbD 5 = d.getLsbD 0 := cwWord_getLsbD fb fa d s op 5

theorem getLsbD_cwWord_fa {j : Nat} (h : 8 ≤ j ∧ j < 15) :
    (cwWord fb fa d s op).getLsbD j = fa.getLsbD (j - 8) := by
  rw [cwWord_getLsbD, if_neg (by omega), if_neg (by omega), if_neg (by omega), if_neg (by omega), if_pos h.2]

theorem getLsbD_cwWord_fb {j : Nat} (h : 16 ≤ j ∧ j < 23) :
    (cwWord fb fa d s op).getLsbD j = fb.getLsbD (j - 16) := by
  rw [cwWord_getLsbD, if_neg (by omega), if_neg (by omega), if_neg (by omega), if_neg (by omega), if_neg (by omega),
    if_neg (by omega), if_pos h.2]

end

theorem getLsbD_ofNat_faField (w : Word) {j : Nat} (h : 8 ≤ j ∧ j < 15) :
    (BitVec.ofNat 7 (faField w)).getLsbD (j - 8) = w.getLsbD j := by
  rw [ofNat_faField, BitVec.getLsbD_extractLsb', decide_eq_true (by omega), Bool.true_and, Nat.add_sub_cancel' h.1]

theorem getLsbD_ofNat_fbField (w : Word) {j : Nat} (h : 16 ≤ j ∧ j < 23) :
    (BitVec.ofNat 7 (fbField w)).getLsbD (j - 16) = w.getLsbD j := by
  rw [ofNat_fbField, BitVec.getLsbD_extractLsb', decide_eq_true (by omega), Bool.true_and, Nat.add_sub_cancel' h.1]

/-! The bits each mask leaves free are operand bits (R91). -/

theorem freeBits_twoOperands :
    ∀ j < 32, (0xFF8080CF#32).getLsbD j = false → j = 4 ∨ j = 5 ∨ (8 ≤ j ∧ j < 15) ∨ (16 ≤ j ∧ j < 23) := by decide
theorem freeBits_cvt : ∀ j < 32, rowCvt.mask.getLsbD j = false → j = 4 ∨ (8 ≤ j ∧ j < 15) := by decide
theorem freeBits_clr : ∀ j < 32, rowClr.mask.getLsbD j = false → j = 4 := by decide
theorem freeBits_none : ∀ j < 32, ¬ (0xFFFFFFFF#32).getLsbD j = false := by decide

/-- A CW word made of another word's operand fields has that word's operand bits. -/
theorem getLsbD_cwWord_fields (w : Word) (op : Digit) {j : Nat}
    (h : j = 4 ∨ j = 5 ∨ (8 ≤ j ∧ j < 15) ∨ (16 ≤ j ∧ j < 23)) :
    (cwWord (.ofNat 7 (fbField w)) (.ofNat 7 (faField w)) (dstField w).bit (srcField w).bit op).getLsbD j =
      w.getLsbD j := by
  rcases h with rfl | rfl | inFa | inFb
  · rw [getLsbD_cwWord_src, getLsbD_srcField_bit]
  · rw [getLsbD_cwWord_dst, getLsbD_dstField_bit]
  · rw [getLsbD_cwWord_fa _ _ _ _ _ inFa, getLsbD_ofNat_faField w inFa]
  · rw [getLsbD_cwWord_fb _ _ _ _ _ inFb, getLsbD_ofNat_fbField w inFb]

/-- The command of a row has operands that fit, and its word has the operand bits it was read from. -/
theorem rowCommands_operands {w : Word} {r : OpcodeRow} {i : Instr} (h : (r, i) ∈ rowCommands w) :
    rowOf i = r ∧ i.wellFormed = true ∧
      ∀ j < 32, r.mask.getLsbD j = false → (encode i).getLsbD j = w.getLsbD j := by
  have fa := fitsField_faField w
  have fb := fitsField_fbField w
  simp only [rowCommands, List.mem_cons, Prod.mk.injEq, List.not_mem_nil, or_false] at h
  rcases h with ⟨rfl, rfl⟩ | ⟨rfl, rfl⟩ | ⟨rfl, rfl⟩ | ⟨rfl, rfl⟩ | ⟨rfl, rfl⟩ | ⟨rfl, rfl⟩ | ⟨rfl, rfl⟩ | ⟨rfl, rfl⟩
  iterate 4 exact ⟨rfl, rfl, fun j hj free => absurd free (freeBits_none j hj)⟩
  · refine ⟨rfl, Bool.and_eq_true_iff.2 ⟨fb, fa⟩, fun j hj free => ?_⟩
    exact getLsbD_cwWord_fields w 0x4 (freeBits_twoOperands j hj free)
  · refine ⟨rfl, Bool.and_eq_true_iff.2 ⟨fa, fb⟩, fun j hj free => ?_⟩
    exact getLsbD_cwWord_fields w 0x5 (freeBits_twoOperands j hj free)
  · refine ⟨rfl, fa, fun j hj free => ?_⟩
    rcases freeBits_cvt j hj free with rfl | inFa
    · exact (getLsbD_cwWord_src _ _ _ _ _).trans (getLsbD_srcField_bit w)
    · exact (getLsbD_cwWord_fa _ _ _ _ _ inFa).trans (getLsbD_ofNat_faField w inFa)
  · refine ⟨rfl, rfl, fun j hj free => ?_⟩
    obtain rfl := freeBits_clr j hj free
    exact (getLsbD_cwWord_src _ _ _ _ _).trans (getLsbD_srcField_bit w)

/-- Settles O12: the word and the encoding fit one row, and agree on the bits that row leaves to the operands. -/
theorem decodedCommandEncodesToItsWord : Obligations.DecodedCommandEncodesToItsWord := by
  intro w i decoded
  obtain ⟨r, hrow, fits⟩ := row_of_decode decoded
  obtain ⟨rfl, wellFormed, operands⟩ := rowCommands_operands hrow
  exact ⟨wellFormed, eq_of_fits (encode_fits i) fits operands⟩

end Sys2Proof
end

section
/-! PROOFS. All that one step other than a reset can leave, once over: one constructor of `Effect` for each way a turn
ends (00_scope.md R6, 20_memory.md R65, 40_command_control.md R100 to R106, 41_pattern_matcher.md R126 to R134). -/

namespace Sys2Proof.Machine

/-! ## A consumed unit -/

/-- What a consumed unit within the read width can leave, its completion apart (R126, R128, R132, R133). -/
inductive Consumed (data : UnitValue) (c : BitVec 4) (s : State) : State → Prop
  | recorded : Consumed data c s (recordUnit data c s)
  | matched (p : Nat) (scanning : s.phase = .scana) : Consumed data c s (countMatch p (recordUnit data c s))
  | sentinel (hunting : s.phase = .hunt) : Consumed data c s (beginCapture (recordUnit data c s))
  | captured (capturing : s.phase = .capture) : Consumed data c s (captureOne (recordUnit data c s))

/-- What a scan that goes on after a unit has not reached: its attempt cap, its N-th match, its K-th unit (R129, R133,
R134). -/
structure GoesOn (s u : State) : Prop where
  below_cap : u.acnt ≠ u.maxatt
  below_matches : s.phase = .scana → u.mcnt = s.mcnt ∨ u.mcnt ≠ u.nmatch
  below_frame : s.phase = .capture → u.ccnt = s.ccnt ∨ u.ccnt ≠ u.frmk

/-- After what the unit leaves, the scan ends with a completion or goes on. -/
def EndsOrGoesOn (s u t : State) : Prop := (∃ code, t = finish code u) ∨ (t = u ∧ GoesOn s u)

theorem scanaCap_endsOrGoesOn {s u : State} (unmatched : s.phase = .scana → u.mcnt = s.mcnt ∨ u.mcnt ≠ u.nmatch)
    (unfilled : s.phase = .capture → u.ccnt = s.ccnt ∨ u.ccnt ≠ u.frmk) : EndsOrGoesOn s u (scanaCap u) := by
  rcases scanaCap_cases u with ⟨-, e⟩ | ⟨below, e⟩
  · exact .inl ⟨_, e⟩
  · exact .inr ⟨e, below, unmatched, unfilled⟩

theorem scansCap_endsOrGoesOn {s u : State} (unmatched : s.phase = .scana → u.mcnt = s.mcnt ∨ u.mcnt ≠ u.nmatch)
    (unfilled : s.phase = .capture → u.ccnt = s.ccnt ∨ u.ccnt ≠ u.frmk) : EndsOrGoesOn s u (scansCap u) := by
  rcases scansCap_cases u with ⟨-, -, e⟩ | ⟨-, -, e⟩ | ⟨below, e⟩
  · exact .inl ⟨_, e⟩
  · exact .inl ⟨_, e⟩
  · exact .inr ⟨e, below, unmatched, unfilled⟩

/-- A requested unit within the read width leaves one of the states of `Consumed`, and then ends the scan or not. -/
theorem unitStep_of_consumed {data : UnitValue} {c : BitVec 4} {s : State} (requested : uReq s = true)
    (within : c.toNat ≤ s.uw.toNat) : ∃ u, Consumed data c s u ∧ EndsOrGoesOn s u (unitStep data c s) := by
  rcases unitStep_cases data c s with ⟨h, -⟩ | ⟨-, h, -⟩ | ⟨hp, -, e⟩ | ⟨hp, -, e⟩ | ⟨hp, -, e⟩
  · rw [requested] at h
    cases h
  · omega
  · rcases scanaUnit_cases (recordUnit data c s) with ⟨-, e'⟩ | ⟨p, -, ⟨-, e'⟩ | ⟨more, e'⟩⟩
    · exact ⟨_, .recorded, by rw [e, e']; exact scanaCap_endsOrGoesOn (fun _ => .inl rfl) fun _ => .inl rfl⟩
    · exact ⟨_, .matched p hp, .inl ⟨_, e.trans e'⟩⟩
    · exact ⟨_, .matched p hp, by rw [e, e']; exact scanaCap_endsOrGoesOn (fun _ => .inr more) fun _ => .inl rfl⟩
  · rcases huntUnit_cases (recordUnit data c s) with ⟨-, e'⟩ | ⟨-, e'⟩
    · refine ⟨_, .sentinel hp, ?_⟩
      rw [e, e']
      exact scansCap_endsOrGoesOn (fun _ => .inl rfl) fun h => absurd (hp.symm.trans h) nofun
    · exact ⟨_, .recorded, by rw [e, e']; exact scansCap_endsOrGoesOn (fun _ => .inl rfl) fun _ => .inl rfl⟩
  · rcases captureUnit_cases (recordUnit data c s) with ⟨-, e'⟩ | ⟨-, -, e'⟩ | ⟨-, more, e'⟩
    · exact ⟨_, .recorded, by rw [e, e']; exact scansCap_endsOrGoesOn (fun _ => .inl rfl) fun _ => .inl rfl⟩
    · exact ⟨_, .captured hp, .inl ⟨_, e.trans e'⟩⟩
    · exact ⟨_, .captured hp, by rw [e, e']; exact scansCap_endsOrGoesOn (fun _ => .inl rfl) fun _ => .inr more⟩

/-- A requested unit of more bytes than UW is one attempt and ends the scan with UNIT (R126). -/
theorem unitStep_of_excess {s : State} (requested : uReq s = true) {c : BitVec 4} (excess : s.uw.toNat < c.toNat)
    (data : UnitValue) : unitStep data c s = finish .unit { s with acnt := s.acnt + 1 } := by
  rw [unitStep, if_pos requested, if_pos excess]

/-! ## One step -/

/-- All that one step from `s` can leave, but for a reset. -/
inductive Effect (s : State) : State → Prop
  /-- Nothing of the SFS changes: no turn was taken, the host read, or the reset input was released. -/
  | passed (pin : Bool) (rd : Option Word) (notAsserted : pin = true → s.resetPin = true) :
      Effect s { s.rest with resetPin := pin, readData := rd }
  /-- A completion alone: an illegal word, a command that writes nothing, or the ABORT of one in progress. -/
  | completed (c : Code) (busy : s.phase ≠ .idle) : Effect s (finish c s.rest)
  | bufferWritten (d : BufSel) (x : Buffer) (pending : s.phase = .pending) : Effect s (finish .ok (s.rest.setBuf d x))
  | resWritten (src : BufSel) (off : Nat) (r : Word) (pending : s.phase = .pending)
      (isCvt : decode s.xcmd = .ok (.cvt src off)) : Effect s (finish .ok { s.rest with res := r })
  | scanaBegun (pending : s.phase = .pending) (isScana : decode s.xcmd = .ok .scana)
      (configured : ScanaConfigured s) : Effect s { s.rest with mcnt := 0, acnt := 0, mpos := 0, phase := .scana }
  | scansBegun (pending : s.phase = .pending) (configured : ScansConfigured s) :
      Effect s { s.rest with acnt := 0, ccnt := 0, phase := .hunt }
  | busyError : Effect s (busyWriteError s.rest)
  | stored (r : Reg) (v : Word) (idle : s.phase = .idle) : Effect s (storeGuarded r v s.rest)
  | statusWritten (off : Offset) (v : Word) (event : s.event = some (.hostWrite off v)) (word : off.toNat / 4 = 2) :
      Effect s { s.rest with flags := s.rest.flags.writeOneToClear v }
  | ienWritten (f : Flags) : Effect s { s.rest with ien := f }
  | accepted (w : Word) (idle : s.phase = .idle) : Effect s (accept w s.rest)
  /-- A unit of more bytes than UW. -/
  | unitRefused (requested : uReq s = true) : Effect s (finish .unit { s.rest with acnt := s.rest.acnt + 1 })
  | unitEnded (data : UnitValue) (c : BitVec 4) (u : State) (code : Code) (requested : uReq s = true)
      (consumed : Consumed data c s.rest u) : Effect s (finish code u)
  | unitTaken (data : UnitValue) (c : BitVec 4) (u : State) (requested : uReq s = true)
      (consumed : Consumed data c s.rest u) (goesOn : GoesOn s u) : Effect s u

theorem phase_ne_idle_of_pending {s : State} (h : s.phase = .pending) : s.phase ≠ .idle := h ▸ nofun

theorem phase_ne_idle_of_uReq {s : State} (h : uReq s = true) : s.phase ≠ .idle := by
  rcases (uReq_iff s).1 h with h | h | h <;> exact h ▸ nofun

theorem effect_of_rest (s : State) : Effect s s.rest := .passed s.resetPin s.readData id

theorem effect_of_exec {s t : State} {i : Instr} (pending : s.phase = .pending) (decoded : decode s.xcmd = .ok i)
    (h : exec i s.rest = .next t) : Effect s t := by
  obtain ⟨t', h', outcome⟩ := exec_cases i s.rest
  obtain rfl : t' = t := Host.Outcome.next.inj (h'.symm.trans h)
  rcases outcome with ⟨c, rfl⟩ | ⟨d, x, rfl⟩ | ⟨src, off, r, rfl, rfl⟩ | ⟨rfl, configured, rfl⟩ | ⟨-, configured, rfl⟩
  · exact .completed c (phase_ne_idle_of_pending pending)
  · exact .bufferWritten d x pending
  · exact .resWritten src off r pending decoded
  · exact .scanaBegun pending decoded configured
  · exact .scansBegun pending configured

theorem effect_of_busWrite {s : State} {off : Offset} {v : Word} (event : s.event = some (.hostWrite off v))
    (notReset : ¬ s.resetting) : Effect s (busWrite off v s.rest) := by
  rcases busWrite_cases off v s.rest with
    e | ⟨word, bit31, -⟩ | ⟨-, e⟩ | ⟨idle, e⟩ | ⟨word, e⟩ | ⟨-, e⟩ | ⟨-, idle, e⟩ | ⟨-, busy, -, e⟩
  · rw [e]; exact effect_of_rest s
  · exact absurd (.inr ⟨off, v, event, word, bit31⟩) notReset
  · rw [e]; exact .busyError
  · rw [e]; exact .stored _ v idle
  · rw [e]; exact .statusWritten off v event word
  · rw [e]; exact .ienWritten _
  · rw [e]; exact .accepted v idle
  · rw [e]; exact .completed .aborted busy

theorem effect_of_unitStep (s : State) (data : UnitValue) (c : BitVec 4) : Effect s (unitStep data c s.rest) := by
  cases requested : uReq s with
  | false => rw [unitStep_of_not_uReq (s := s.rest) requested]; exact effect_of_rest s
  | true =>
    by_cases within : c.toNat ≤ s.uw.toNat
    · obtain ⟨u, consumed, ⟨code, e⟩ | ⟨e, goesOn⟩⟩ :=
        unitStep_of_consumed (data := data) (s := s.rest) requested within
      · rw [e]; exact .unitEnded data c u code requested consumed
      · rw [e]; exact .unitTaken data c u requested consumed ⟨goesOn.1, goesOn.2, goesOn.3⟩
    · rw [unitStep_of_excess (s := s.rest) requested (Nat.lt_of_not_le within)]
      exact .unitRefused requested

/-- The step of a state that is not about to be reset has one of the effects. -/
theorem effect_of_step {s t : State} (h : step s = .next t) (notReset : ¬ s.resetting) : Effect s t := by
  rcases step_cases s with e | ⟨-, hp, i, hd, e⟩ | ⟨-, hp, -, -, e⟩ | ⟨b, hb, e⟩ | ⟨off, -, e⟩ | ⟨off, v, hm, e⟩ |
    ⟨data, c, -, e⟩
  case inr.inl => exact effect_of_exec hp hd (e.symm.trans h)
  all_goals obtain rfl := Host.Outcome.next.inj (e.symm.trans h)
  · exact effect_of_rest s
  · exact .completed .illop (phase_ne_idle_of_pending hp)
  · cases b with
    | false => exact .passed false s.readData nofun
    | true => exact absurd (.inl hb) notReset
  · exact .passed s.resetPin _ id
  · exact effect_of_busWrite hm.2 notReset
  · exact effect_of_unitStep s data c

end Sys2Proof.Machine
end

section
/-! PROOFS. What no step but a reset changes, and who writes what: the configuration while busy, the results, the flags
and CODE (10_state.md R28, 20_memory.md R65, R75, 60_exceptions.md R210 to R212). -/

namespace Sys2Proof.Machine

variable {data : UnitValue} {c : BitVec 4} {s t u : State}

/-! ## The configuration while busy -/

/-- What a command in progress is held to: the configuration, XCMD and LASTOP (20_memory.md R65, R75). -/
def State.frozen (s : State) : BitVec 1 × BitVec 2 × BitVec 4 × BitVec 4 × BitVec 16 × BitVec 5 × Word × Word × Word ×
    Word × BitVec 4 × Word × BitVec 4 :=
  (s.bord, s.rend, s.uw, s.nmatch, s.maxatt, s.plen, s.pat0, s.pat1, s.sentLo, s.sentHi, s.frmk, s.xcmd, s.lastop)

theorem frozen_eq_iff (s t : State) :
    t.frozen = s.frozen ↔
      t.bord = s.bord ∧ t.rend = s.rend ∧ t.uw = s.uw ∧ t.nmatch = s.nmatch ∧ t.maxatt = s.maxatt ∧ t.plen = s.plen ∧
        t.pat0 = s.pat0 ∧ t.pat1 = s.pat1 ∧ t.sentLo = s.sentLo ∧ t.sentHi = s.sentHi ∧ t.frmk = s.frmk ∧
        t.xcmd = s.xcmd ∧ t.lastop = s.lastop := by
  simp only [State.frozen, Prod.mk.injEq]

theorem Consumed.frozen (h : Consumed data c s u) : u.frozen = s.frozen := by cases h <;> rfl

/-- Only an idle SFS has its configuration stored or a word accepted. -/
theorem Effect.frozen (h : Effect s t) (busy : s.phase ≠ .idle) : t.frozen = s.frozen := by
  cases h with
  | stored r v idle => exact absurd idle busy
  | accepted w idle => exact absurd idle busy
  | bufferWritten d x => cases d <;> rfl
  | unitEnded data c u code requested consumed => exact consumed.frozen
  | unitTaken data c u requested consumed => exact consumed.frozen
  | _ => rfl

/-- Settles O51: no effect of a step from a busy state writes the configuration. -/
theorem configurationIsFrozenWhileBusy : Obligations.ConfigurationIsFrozenWhileBusy := by
  intro s t stepped busy notReset
  exact (frozen_eq_iff s t).1 ((effect_of_step stepped notReset).frozen busy)

/-! ## RES, MCNT and MPOS -/

theorem Consumed.res (h : Consumed data c s u) : u.res = s.res := by cases h <;> rfl

/-- A unit counts a match in an address scan only. -/
theorem Consumed.matchCount (h : Consumed data c s u) :
    s.phase = .scana ∨ (u.mcnt = s.mcnt ∧ u.mpos = s.mpos) := by
  cases h with
  | matched p scanning => exact .inl scanning
  | _ => exact .inr ⟨rfl, rfl⟩

theorem Effect.res (h : Effect s t) :
    t.res = s.res ∨ (s.phase = .pending ∧ ∃ src off, decode s.xcmd = .ok (.cvt src off)) := by
  cases h with
  | resWritten src off r pending isCvt => exact .inr ⟨pending, src, off, isCvt⟩
  | bufferWritten d x => cases d <;> exact .inl rfl
  | stored r v => exact .inl (storeGuarded_res r v s.rest)
  | unitEnded data c u code requested consumed => exact .inl consumed.res
  | unitTaken data c u requested consumed => exact .inl consumed.res
  | _ => exact .inl rfl

theorem Effect.matchCount (h : Effect s t) :
    (s.phase = .scana ∨ (s.phase = .pending ∧ decode s.xcmd = .ok .scana)) ∨ (t.mcnt = s.mcnt ∧ t.mpos = s.mpos) := by
  cases h with
  | scanaBegun pending isScana => exact .inl (.inr ⟨pending, isScana⟩)
  | bufferWritten d x => cases d <;> exact .inr ⟨rfl, rfl⟩
  | stored r v => exact .inr ⟨storeGuarded_mcnt r v s.rest, storeGuarded_mpos r v s.rest⟩
  | unitEnded data c u code requested consumed => exact consumed.matchCount.imp_left .inl
  | unitTaken data c u requested consumed => exact consumed.matchCount.imp_left .inl
  | _ => exact .inr ⟨rfl, rfl⟩

/-- Settles O52: one effect writes RES, and the start and the matches of an address scan write MCNT and MPOS. -/
theorem resultRegistersHaveOneWriter : Obligations.ResultRegistersHaveOneWriter := by
  intro s t stepped notReset
  have effect := effect_of_step stepped notReset
  refine ⟨effect.res.resolve_left, fun changed => effect.matchCount.resolve_right fun ⟨mcnt, mpos⟩ => ?_⟩
  exact changed.elim (· mcnt) (· mpos)

/-! ## The flags -/

/-- Every flag set in `f` is set in `g`. -/
def Flags.Kept (f g : Flags) : Prop :=
  (f.done = true → g.done = true) ∧ (f.found = true → g.found = true) ∧ (f.frame = true → g.frame = true) ∧
    (f.err = true → g.err = true) ∧ (f.bwe = true → g.bwe = true) ∧ (f.short = true → g.short = true)

theorem Flags.Kept.refl (f : Flags) : f.Kept f := ⟨id, id, id, id, id, id⟩

theorem Flags.kept_noteShort (f : Flags) (c uw : BitVec 4) : f.Kept (f.noteShort c uw) :=
  ⟨id, id, id, id, id, fun h => Bool.or_eq_true_iff.2 (.inl h)⟩

theorem Flags.Kept.complete {f g : Flags} (h : f.Kept g) (c : Code) : f.Kept (g.complete c) := by
  obtain ⟨-, found, frame, err, bwe, short⟩ := h
  exact ⟨fun _ => rfl, fun h => Bool.or_eq_true_iff.2 (.inl (found h)), fun h => Bool.or_eq_true_iff.2 (.inl (frame h)),
    fun h => Bool.or_eq_true_iff.2 (.inl (err h)), bwe, short⟩

theorem Consumed.flags (h : Consumed data c s u) :
    u.flags = s.flags.noteShort c s.uw := by cases h <;> rfl

theorem Consumed.flags_kept (h : Consumed data c s u) :
    s.flags.Kept u.flags := h.flags ▸ s.flags.kept_noteShort c s.uw

theorem Effect.flags_kept (h : Effect s t)
    (notStatus : ∀ off v, s.event = some (.hostWrite off v) → off.toNat / 4 ≠ 2) : s.flags.Kept t.flags := by
  have same := Flags.Kept.refl s.flags
  cases h with
  | statusWritten off v event word => exact absurd word (notStatus off v event)
  | completed c => exact same.complete c
  | bufferWritten d x => cases d <;> exact same.complete .ok
  | resWritten => exact same.complete .ok
  | unitRefused => exact same.complete .unit
  | busyError => exact ⟨id, id, id, id, fun _ => rfl, id⟩
  | stored r v => rw [storeGuarded_flags]; exact same
  | unitEnded data c u code requested consumed => exact consumed.flags_kept.complete code
  | unitTaken data c u requested consumed => exact consumed.flags_kept
  | _ => exact same

/-- Settles O49: one effect clears flags, a write to STATUS. -/
theorem flagsAreSticky : Obligations.FlagsAreSticky := by
  intro s t stepped notReset notStatus
  exact (effect_of_step stepped notReset).flags_kept notStatus

/-! ## CODE and the end of a command -/

/-- The step ends a command by a completion. -/
def Completes (s t : State) : Prop := s.phase ≠ .idle ∧ t.phase = .idle ∧ t.flags.done = true

/-- The step leaves CODE as it is and no command in progress ends. -/
def CarriesOn (s t : State) : Prop := t.code = s.code ∧ (s.phase ≠ .idle → t.phase ≠ .idle)

theorem completes_finish {s : State} (busy : s.phase ≠ .idle) (c : Code) (u : State) : Completes s (finish c u) :=
  ⟨busy, rfl, rfl⟩

theorem Consumed.carriesOn (h : Consumed data c s u) :
    CarriesOn s u := by
  cases h with
  | recorded => exact ⟨rfl, id⟩
  | matched p => exact ⟨rfl, id⟩
  | sentinel => exact ⟨rfl, fun _ => nofun⟩
  | captured => exact ⟨rfl, id⟩

/-- Every effect either ends a command by a completion or carries on. -/
theorem Effect.completes_or_carriesOn (h : Effect s t) : Completes s t ∨ CarriesOn s t := by
  cases h with
  | completed c busy => exact .inl (completes_finish busy c _)
  | bufferWritten d x pending => exact .inl (completes_finish (phase_ne_idle_of_pending pending) _ _)
  | resWritten src off r pending => exact .inl (completes_finish (phase_ne_idle_of_pending pending) _ _)
  | unitRefused requested => exact .inl (completes_finish (phase_ne_idle_of_uReq requested) _ _)
  | unitEnded data c u code requested => exact .inl (completes_finish (phase_ne_idle_of_uReq requested) _ _)
  | unitTaken data c u requested consumed => exact .inr consumed.carriesOn
  | stored r v idle => exact .inr ⟨storeGuarded_code r v s.rest, absurd idle⟩
  | scanaBegun => exact .inr ⟨rfl, fun _ => nofun⟩
  | scansBegun => exact .inr ⟨rfl, fun _ => nofun⟩
  | accepted w => exact .inr ⟨rfl, fun _ => nofun⟩
  | _ => exact .inr ⟨rfl, id⟩

/-- Settles O48: an effect that carries on neither ends a command nor changes CODE. -/
theorem commandsEndByCompletionOrReset : Obligations.CommandsEndByCompletionOrReset := by
  intro s t stepped notReset
  rcases (effect_of_step stepped notReset).completes_or_carriesOn with completes | ⟨sameCode, staysBusy⟩
  · exact ⟨fun _ _ => completes.2.2, fun _ => completes⟩
  · exact ⟨fun busy idle => absurd idle (staysBusy busy), fun changed => absurd sameCode changed⟩

/-- Settles O47: the step has an answer for every kind of event, and every command's meaning has one. -/
theorem everyStateStepsOn : Obligations.EveryStateStepsOn := by
  intro s
  rcases step_cases s with e | ⟨-, -, i, -, e⟩ | ⟨-, -, -, -, e⟩ | ⟨b, -, e⟩ | ⟨off, -, e⟩ | ⟨off, v, -, e⟩ |
    ⟨data, c, -, e⟩
  case inr.inl =>
    obtain ⟨t, ht, -⟩ := exec_cases i s.rest
    exact ⟨t, e.trans ht⟩
  all_goals exact ⟨_, e⟩

end Sys2Proof.Machine
end

section
/-! PROOFS. The invariant of every run from reset: the reset state meets it, and every effect of a step keeps it
(41_pattern_matcher.md R127 to R134, 70_reset_and_hazards.md R240, R241). -/

namespace Sys2Proof.Machine

/-! ## While idle -/

/-- With no command in progress the invariant says only what the SFS holds while the reset input is asserted. -/
theorem inv_of_idle {s : State} (idle : s.phase = .idle) (held : s.resetPin = true → s = resetAction s) : s.Inv where
  pending_lastop h := absurd (idle.symm.trans h) nofun
  scana_bounds h := absurd (idle.symm.trans h) nofun
  hunt_bounds h := absurd (idle.symm.trans h) nofun
  capture_bounds h := absurd (idle.symm.trans h) nofun
  capture_rest_zero h := absurd (idle.symm.trans h) nofun
  held_in_reset := held

theorem inv_of_resetAction {s : State} (h : s = resetAction s) : s.Inv :=
  inv_of_idle (congrArg State.phase h) fun _ => h

/-- Settles O55: the reset state is idle. -/
theorem resetMeetsTheInvariant : Obligations.ResetMeetsTheInvariant := inv_of_resetAction rfl

/-! ## The reset input and the soft reset -/

theorem resetAction_rest {s : State} (h : s = resetAction s) : s.rest = resetAction s.rest := by
  conv_lhs => rw [h]
  rfl

/-- A step with the reset input asserted keeps the held reset state, or releases the input. -/
theorem inv_of_step_asserted {s t : State} (inv : s.Inv) (asserted : s.resetPin = true) (stepped : step s = .next t) :
    t.Inv := by
  have held : s = resetAction s := inv.held_in_reset asserted
  by_cases level : ∃ b, s.event = some (.resetLevel b)
  · obtain ⟨b, hb⟩ := level
    obtain rfl := Host.Outcome.next.inj ((step_resetLevel hb).symm.trans stepped)
    cases b with
    | true => exact inv_of_resetAction rfl
    | false => exact inv_of_idle (congrArg State.phase held) nofun
  · obtain rfl := Host.Outcome.next.inj ((step_held asserted (not_exists.1 level)).symm.trans stepped)
    exact inv_of_resetAction (resetAction_rest held)

/-- A reset, by asserting the input at any time or by a soft reset, gives a reset state. -/
theorem resetAction_of_resetting {s t : State}
    (h : s.event = some (.resetLevel true) ∨ (s.resetPin = false ∧ s.resetting)) (stepped : step s = .next t) :
    t = resetAction t := by
  obtain level | ⟨released, level | ⟨off, v, event, word, bit31⟩⟩ := h
  · obtain rfl := Host.Outcome.next.inj ((step_resetLevel level).symm.trans stepped)
    rfl
  · obtain rfl := Host.Outcome.next.inj ((step_resetLevel level).symm.trans stepped)
    rfl
  · have written : step s = .next (resetAction s.rest) := by
      rw [step_hostWrite ⟨released, event⟩, busWrite_ctrl word, controlWrite_of_softReset bit31]
    obtain rfl := Host.Outcome.next.inj (written.symm.trans stepped)
    rfl

/-! ## The effects of a step with the reset input released -/

theorem inv_of_finish (c : Code) {u : State} (released : u.resetPin = false) : (finish c u).Inv :=
  inv_of_idle rfl fun asserted => absurd (released.symm.trans asserted) nofun

/-- The invariant does not look at the flags, the enables, the events to come or what the host has read. -/
theorem State.Inv.of_host {s : State} (inv : s.Inv) {pin : Bool} (released : pin = false) (f g : Flags)
    (l : List Input) (rd : Option Word) :
    ({ s with flags := f, ien := g, resetPin := pin, inputs := l, readData := rd } : State).Inv where
  pending_lastop := inv.pending_lastop
  scana_bounds := inv.scana_bounds
  hunt_bounds := inv.hunt_bounds
  capture_bounds := inv.capture_bounds
  capture_rest_zero := inv.capture_rest_zero
  held_in_reset asserted := absurd (released.symm.trans asserted) nofun

theorem inv_accept (w : Word) {s : State} (released : s.resetPin = false) : (accept w s).Inv where
  pending_lastop _ := rfl
  scana_bounds := nofun
  hunt_bounds := nofun
  capture_bounds := nofun
  capture_rest_zero := nofun
  held_in_reset asserted := absurd (released.symm.trans asserted) nofun

/-! A phase of a scan by itself: its bounds are all the invariant says. -/

theorem inv_of_scana {s : State} (phase : s.phase = .scana) (released : s.resetPin = false)
    (bounds : ScanaConfigured s ∧ s.acnt.toNat < s.maxatt.toNat ∧ s.mcnt.toNat < s.nmatch.toNat) : s.Inv where
  pending_lastop h := absurd (phase.symm.trans h) nofun
  scana_bounds _ := bounds
  hunt_bounds h := absurd (phase.symm.trans h) nofun
  capture_bounds h := absurd (phase.symm.trans h) nofun
  capture_rest_zero h := absurd (phase.symm.trans h) nofun
  held_in_reset asserted := absurd (released.symm.trans asserted) nofun

theorem inv_of_hunt {s : State} (phase : s.phase = .hunt) (released : s.resetPin = false)
    (bounds : ScansConfigured s ∧ s.acnt.toNat < s.maxatt.toNat ∧ s.ccnt = 0) : s.Inv where
  pending_lastop h := absurd (phase.symm.trans h) nofun
  scana_bounds h := absurd (phase.symm.trans h) nofun
  hunt_bounds _ := bounds
  capture_bounds h := absurd (phase.symm.trans h) nofun
  capture_rest_zero h := absurd (phase.symm.trans h) nofun
  held_in_reset asserted := absurd (released.symm.trans asserted) nofun

theorem inv_of_capture {s : State} (phase : s.phase = .capture) (released : s.resetPin = false)
    (bounds : ScansConfigured s ∧ s.acnt.toNat < s.maxatt.toNat ∧ s.ccnt.toNat < s.frmk.toNat)
    (restZero : ∀ i, 16 * s.ccnt.toNat ≤ i → i < 128 → digitAt s.bufA i = 0) : s.Inv where
  pending_lastop h := absurd (phase.symm.trans h) nofun
  scana_bounds h := absurd (phase.symm.trans h) nofun
  hunt_bounds h := absurd (phase.symm.trans h) nofun
  capture_bounds _ := bounds
  capture_rest_zero _ := restZero
  held_in_reset asserted := absurd (released.symm.trans asserted) nofun

/-! ## The units of a scan that goes on -/

theorem toNat_pos_of_ne_zero {n : Nat} {x : BitVec n} (h : x ≠ 0) : 0 < x.toNat :=
  Nat.pos_of_ne_zero fun zero => h (BitVec.eq_of_toNat_eq (by simpa using zero))

/-- A counter below a bound does not wrap. -/
theorem toNat_succ_of_lt {n : Nat} {x bound : BitVec n} (below : x.toNat < bound.toNat) :
    (x + 1).toNat = x.toNat + 1 := by
  have fits : x.toNat + 1 < 2 ^ n := lt_of_le_of_lt below bound.isLt
  simp [BitVec.toNat_add, Nat.mod_eq_of_lt fits]

/-- A counter below its bound is still below it after one more, unless it has reached it. -/
theorem succ_lt_of_ne {n : Nat} {x bound : BitVec n} (below : x.toNat < bound.toNat) (ne : x + 1 ≠ bound) :
    (x + 1).toNat < bound.toNat := by
  have notReached : (x + 1).toNat ≠ bound.toNat := mt BitVec.eq_of_toNat_eq ne
  rw [toNat_succ_of_lt below] at notReached ⊢
  omega

theorem succ_ne_self_of_lt {n : Nat} {x bound : BitVec n} (below : x.toNat < bound.toNat) : x + 1 ≠ x := fun h =>
  Nat.succ_ne_self x.toNat ((toNat_succ_of_lt below).symm.trans (congrArg BitVec.toNat h))

/-- The digits beyond the units captured are 0 after one more, since it fills only the next 16. -/
theorem captureOne_rest_zero {s : State} (restZero : ∀ i, 16 * s.ccnt.toNat ≤ i → i < 128 → digitAt s.bufA i = 0)
    (count : (s.ccnt + 1).toNat = s.ccnt.toNat + 1) :
    ∀ i, 16 * (captureOne s).ccnt.toNat ≤ i → i < 128 → digitAt (captureOne s).bufA i = 0 := by
  intro i hi inside
  have beyond : 16 * (s.ccnt.toNat + 1) ≤ i := count ▸ hi
  rw [digitAt_captureOne s inside, if_neg (by omega), restZero i (by omega) inside]

theorem Consumed.resetPin {data : UnitValue} {c : BitVec 4} {s u : State} (h : Consumed data c s u) :
    u.resetPin = s.resetPin := by cases h <;> rfl

/-- Every unit after which the scan goes on keeps the bounds of the phase it leaves. -/
theorem Consumed.inv {data : UnitValue} {c : BitVec 4} {s u : State} (h : Consumed data c s u) (inv : s.Inv)
    (released : s.resetPin = false) (requested : uReq s = true) (goesOn : GoesOn s u) : u.Inv := by
  have cap := goesOn.below_cap
  cases h with
  | recorded =>
    rcases (uReq_iff s).1 requested with phase | phase | phase
    · obtain ⟨configured, attempts, found⟩ := inv.scana_bounds phase
      exact inv_of_scana phase released ⟨configured, succ_lt_of_ne attempts cap, found⟩
    · obtain ⟨configured, attempts, none⟩ := inv.hunt_bounds phase
      exact inv_of_hunt phase released ⟨configured, succ_lt_of_ne attempts cap, none⟩
    · obtain ⟨configured, attempts, units⟩ := inv.capture_bounds phase
      exact inv_of_capture phase released ⟨configured, succ_lt_of_ne attempts cap, units⟩ (inv.capture_rest_zero phase)
  | matched p phase =>
    obtain ⟨configured, attempts, found⟩ := inv.scana_bounds phase
    have more := (goesOn.below_matches phase).resolve_left (succ_ne_self_of_lt found)
    exact inv_of_scana phase released ⟨configured, succ_lt_of_ne attempts cap, succ_lt_of_ne found more⟩
  | sentinel phase =>
    obtain ⟨configured, attempts, -⟩ := inv.hunt_bounds phase
    have frame : 0 < s.frmk.toNat := configured.2.1
    exact inv_of_capture rfl released ⟨configured, succ_lt_of_ne attempts cap, frame⟩
      fun i _ _ => digitAt_clearedBuffer i
  | captured phase =>
    obtain ⟨configured, attempts, units⟩ := inv.capture_bounds phase
    have more := (goesOn.below_frame phase).resolve_left (succ_ne_self_of_lt units)
    exact inv_of_capture phase released ⟨configured, succ_lt_of_ne attempts cap, succ_lt_of_ne units more⟩
      (captureOne_rest_zero (inv.capture_rest_zero phase) (toNat_succ_of_lt units))

/-- A step with the reset input released, and no reset next, keeps the invariant. -/
theorem Effect.inv {s t : State} (h : Effect s t) (inv : s.Inv) (released : s.resetPin = false) : t.Inv := by
  cases h with
  | passed pin rd notAsserted =>
    have pinReleased : pin = false := by
      cases pin with
      | false => rfl
      | true => exact absurd (released.symm.trans (notAsserted rfl)) nofun
    exact inv.of_host pinReleased _ _ _ _
  | completed c => exact inv_of_finish c released
  | bufferWritten d x => exact inv_of_finish .ok ((setBuf_resetPin s.rest d x).trans released)
  | resWritten => exact inv_of_finish .ok released
  | scanaBegun pending isScana configured =>
    exact inv_of_scana rfl released
      ⟨configured, toNat_pos_of_ne_zero configured.2.1, toNat_pos_of_ne_zero configured.1⟩
  | scansBegun pending configured =>
    exact inv_of_hunt rfl released ⟨configured, toNat_pos_of_ne_zero configured.1, rfl⟩
  | busyError => exact inv.of_host released _ _ _ _
  | stored r v idle =>
    refine inv_of_idle ((storeGuarded_phase r v s.rest).trans idle) fun asserted => ?_
    exact absurd ((released.symm.trans (storeGuarded_resetPin r v s.rest).symm).trans asserted) nofun
  | statusWritten => exact inv.of_host released _ _ _ _
  | ienWritten => exact inv.of_host released _ _ _ _
  | accepted w => exact inv_accept w released
  | unitRefused => exact inv_of_finish .unit released
  | unitEnded data c u code requested consumed => exact inv_of_finish code (consumed.resetPin.trans released)
  | unitTaken data c u requested consumed goesOn =>
    exact consumed.inv (inv.of_host released _ _ _ _) released requested ⟨goesOn.1, goesOn.2, goesOn.3⟩

/-- Settles O56: a step holds the reset state, resets, or has one of the effects. -/
theorem everyStepKeepsTheInvariant : Obligations.EveryStepKeepsTheInvariant := by
  intro s t inv stepped
  by_cases asserted : s.resetPin = true
  · exact inv_of_step_asserted inv asserted stepped
  have released : s.resetPin = false := by simpa using asserted
  by_cases resetting : s.resetting
  · exact inv_of_resetAction (resetAction_of_resetting (.inr ⟨released, resetting⟩) stepped)
  · exact (effect_of_step stepped resetting).inv inv released

end Sys2Proof.Machine
end

section
/-! PROOFS. Host accesses by the kind of register they name: reads, read-only registers, IEN, and the guarded registers
idle and busy (10_state.md R22 to R57, 20_memory.md R60 to R65). -/

namespace Sys2Proof.Machine

/-! ## Reads -/

/-- No register's value depends on the events to come or on what the host has read. -/
theorem readReg_host (s : State) (l : List Input) (rd : Option Word) (r : Reg) :
    readReg { s with inputs := l, readData := rd } r = readReg s r := by cases r <;> rfl

/-- Settles O1: the read's step, and the frame of a read. -/
theorem hostReadHasNoSideEffect : Obligations.HostReadHasNoSideEffect := by
  intro s off hmeets
  have value : busRead off s.rest = busRead off s := readReg_host s s.inputs.tail s.readData (regAt off)
  refine ⟨?_, fun off' => readReg_host s _ _ (regAt off')⟩
  rw [step_hostRead hmeets, value]
  rfl

/-! ## Read-only registers -/

/-- The registers that ignore writes: ID and MCNT to CCNT (20_memory.md R61). -/
def Reg.isReadOnly : Reg → Bool
  | .id | .mcnt | .acnt | .mpos | .lastLo | .lastHi | .lastcnt | .res | .ccnt => true
  | _ => false

theorem regAt_readOnly {off : Offset} (h : off.toNat ≤ 0x003 ∨ (0x034 ≤ off.toNat ∧ off.toNat ≤ 0x053)) :
    (regAt off).isReadOnly = true := by
  have word : off.toNat / 4 = 0 ∨ (13 ≤ off.toNat / 4 ∧ off.toNat / 4 ≤ 20) := by omega
  rw [regAt_of_div off rfl]
  generalize off.toNat / 4 = n at word
  rcases word with rfl | ⟨low, high⟩
  · rfl
  · interval_cases n <;> rfl

theorem writeReg_of_readOnly {r : Reg} (h : r.isReadOnly = true) (s : State) (v : Word) : writeReg s r v = s := by
  cases r with
  | id | mcnt | acnt | mpos | lastLo | lastHi | lastcnt | res | ccnt => rfl
  | _ => cases h

/-- Settles O4: the offsets name read-only registers. -/
theorem readOnlyRegistersIgnoreWrites : Obligations.ReadOnlyRegistersIgnoreWrites := by
  intro s off v hoff
  exact writeReg_of_readOnly (regAt_readOnly hoff) s v

/-! ## IEN -/

/-- A write to IEN is never guarded (R40). -/
theorem busWrite_ien {off : Offset} (h : off.toNat / 4 = 0x00C / 4) (v : Word) (s : State) :
    busWrite off v s = { s with ien := Flags.ofWord v } := by
  rw [busWrite_of_regAt (regAt_of_div off h)]
  rfl

theorem busRead_ien {off : Offset} (h : off.toNat / 4 = 0x00C / 4) (s : State) : busRead off s = ienWord s := by
  rw [busRead_of_regAt (regAt_of_div off h)]
  rfl

/-- IEN as its six enables at bits 6:1 (R40). -/
theorem getLsbD_ienWord (s : State) (i : Nat) :
    (ienWord s).getLsbD i = (decide (1 ≤ i ∧ i ≤ 6) && s.ien.bits.getLsbD (i - 1)) := by
  simp only [ienWord, BitVec.getLsbD_append]
  by_cases h : i < 7
  · interval_cases i <;> simp
  · simp (disch := omega) only [if_neg, BitVec.getLsbD_zero]
    simp [show ¬ i ≤ 6 by omega]

/-- Bit `j` of the flags of a word is bit `j + 1` of the word (R40). -/
theorem getLsbD_bits_ofWord (v : Word) {j : Nat} (hj : j < 6) :
    (Flags.ofWord v).bits.getLsbD j = v.getLsbD (j + 1) := by
  simp only [Flags.bits, Flags.ofWord, BitVec.getLsbD_append]
  interval_cases j <;> simp

theorem getLsbD_ienMask : ∀ i < 32, (0x0000007E#32).getLsbD i = decide (1 ≤ i ∧ i ≤ 6) := by decide

theorem ienWord_ofWord (s : State) (v : Word) :
    ienWord { s with ien := Flags.ofWord v } = v &&& 0x0000007E#32 := by
  apply BitVec.eq_of_getLsbD_eq
  intro i hi
  rw [getLsbD_ienWord, BitVec.getLsbD_and, getLsbD_ienMask i hi, Bool.and_comm]
  by_cases enable : 1 ≤ i ∧ i ≤ 6
  · rw [getLsbD_bits_ofWord v (by omega), Nat.sub_add_cancel enable.1]
  · rw [decide_eq_false enable, Bool.and_false, Bool.and_false]

/-- Settles O8: the enables stored are the word's bits 6:1. -/
theorem ienWriteStoresItsSixBits : Obligations.IenWriteStoresItsSixBits := by
  intro s off v hoff
  rw [busWrite_ien hoff, busRead_ien hoff]
  exact ⟨ienWord_ofWord s v, rfl⟩

/-! ## Guarded registers -/

/-- The registers written under the guard of R65, each with the bits of its fields (10_state.md R24 to R28, R42 to R47,
R54); every other register, none. -/
def Reg.fields : Reg → Option Word
  | .ctrl => some 0x000000F7#32
  | .nmatch | .frmk => some 0x0000000F#32
  | .maxatt => some 0x0000FFFF#32
  | .plen => some 0x0000001F#32
  | .pat0 | .pat1 | .sentLo | .sentHi | .bufA _ | .bufB _ => some 0xFFFFFFFF#32
  | _ => none

/-- A write that is no soft reset goes through the guard. -/
theorem writeReg_of_fields {r : Reg} {mask v : Word} (h : r.fields = some mask)
    (notReset : r = .ctrl → v.getLsbD 31 = false) (s : State) : writeReg s r v = guardedWrite r v s := by
  cases r with
  | ctrl => exact if_neg (Bool.eq_false_iff.1 (notReset rfl))
  | nmatch | maxatt | plen | pat0 | pat1 | sentLo | sentHi | frmk | bufA | bufB => rfl
  | _ => cases h

/-! ### The guarded words of the window (20_memory.md R61) -/

theorem regOfWord_window {n : Nat} (h : 64 ≤ n ∧ n < 96) : ∃ d, ∃ w < 16, regOfWord n = windowReg d w := by
  by_cases inA : n < 80
  · exact ⟨.a, n - 64, by omega, if_pos ⟨h.1, inA⟩⟩
  · refine ⟨.b, n - 80, by omega, ?_⟩
    rw [regOfWord, if_neg (by omega), if_pos (by omega)]
    rfl

theorem fields_regOfWord_window {n : Nat} (h : 64 ≤ n ∧ n < 96) :
    (regOfWord n).fields = some 0xFFFFFFFF#32 ∧ regOfWord n ≠ .ctrl := by
  obtain ⟨d, w, -, e⟩ := regOfWord_window h
  rw [e]
  cases d <;> exact ⟨rfl, nofun⟩

/-- NMATCH to FRMK, and the windows. -/
theorem fields_regOfWord {n : Nat} (h : (5 ≤ n ∧ n ≤ 12) ∨ (64 ≤ n ∧ n < 96)) :
    (∃ mask, (regOfWord n).fields = some mask) ∧ regOfWord n ≠ .ctrl := by
  rcases h with ⟨low, high⟩ | window
  · interval_cases n <;> exact ⟨⟨_, rfl⟩, nofun⟩
  · exact (fields_regOfWord_window window).imp_left fun e => ⟨_, e⟩

/-- Settles O5: the offsets name guarded registers, and the guard is closed while busy. -/
theorem guardedWriteWhileBusyOnlySetsBwe : Obligations.GuardedWriteWhileBusyOnlySetsBwe := by
  intro s off v busy hoff
  have guarded : (∃ mask, (regAt off).fields = some mask) ∧ (regAt off = .ctrl → v.getLsbD 31 = false) := by
    rw [regAt_of_div off rfl]
    rcases hoff with ⟨word, notReset⟩ | range
    · rw [word]
      exact ⟨⟨_, rfl⟩, fun _ => notReset⟩
    · exact (fields_regOfWord (n := off.toNat / 4) (by omega)).imp_right fun other isCtrl => absurd isCtrl other
  obtain ⟨⟨mask, hfields⟩, notReset⟩ := guarded
  rw [busWrite_of_regAt rfl, writeReg_of_fields hfields notReset, guardedWrite_of_busy busy]
  rfl

/-! ### Which word a register stands at -/

/-- The word of the window a register stands at; reserved words have none of their own. -/
def Reg.word : Reg → Nat
  | .bufA w => 64 + w
  | .bufB w => 80 + w
  | r => namedRegs.idxOf r

theorem word_regOfWord {n : Nat} (h : regOfWord n ≠ .reserved) : (regOfWord n).word = n := by
  rcases regOfWord_cases n with named | ⟨w, -, rfl, e⟩ | ⟨w, -, rfl, e⟩ | e
  · interval_cases n <;> rfl
  · rw [e, Reg.word]
  · rw [e, Reg.word]
  · exact absurd e h

/-- Different words name different registers, unless both are reserved. -/
theorem regAt_ne {off off' : Offset} (h : off'.toNat / 4 ≠ off.toNat / 4) (named : regAt off ≠ .reserved) :
    regAt off ≠ regAt off' := by
  intro same
  have word := word_regOfWord (n := off.toNat / 4) named
  have word' := word_regOfWord (n := off'.toNat / 4) fun e => named (same.trans e)
  exact h (word'.symm.trans ((congrArg Reg.word same).symm.trans word))

/-- A buffer's window has 16 words. -/
theorem window_word_lt (off : Offset) {d : BufSel} {w : Nat} (h : regAt off = windowReg d w) : w < 16 := by
  rcases regOfWord_cases (off.toNat / 4) with named | ⟨w', hw, -, e⟩ | ⟨w', hw, -, e⟩ | e
  · rw [regAt] at h
    generalize off.toNat / 4 = n at h named
    interval_cases n <;> cases d <;> cases h
  · rw [regAt, e] at h
    cases d <;> cases h
    exact hw
  · rw [regAt, e] at h
    cases d <;> cases h
    exact hw
  · rw [regAt, e] at h
    cases d <;> cases h

/-! ### What a guarded write stores -/

/-- The low `n` bits of a word as a register of `n` bits reads them. -/
theorem setWidth_extractLsb'_low (v mask : Word) (n : Nat) (h : ∀ i < 32, mask.getLsbD i = decide (i < n)) :
    (v.extractLsb' 0 n).setWidth 32 = v &&& mask := by
  apply BitVec.eq_of_getLsbD_eq
  intro i hi
  rw [BitVec.getLsbD_and, h i hi, BitVec.getLsbD_setWidth, BitVec.getLsbD_extractLsb', Nat.zero_add, decide_eq_true hi,
    Bool.true_and, Bool.and_comm]

theorem ctrlWord_storeGuarded (v : Word) (s : State) :
    ctrlWord (storeGuarded .ctrl v s) = v &&& 0x000000F7#32 := by
  apply BitVec.eq_of_getLsbD_eq
  intro i hi
  simp only [ctrlWord, storeGuarded, BitVec.getLsbD_append, BitVec.getLsbD_and, BitVec.getLsbD_extractLsb']
  interval_cases i <;> simp

/-! A window write, for both buffers at once. -/

theorem readReg_setBuf_of_ne {d : BufSel} {r : Reg} (h : ∀ w, r ≠ windowReg d w) (x : Buffer) (s : State) :
    readReg (s.setBuf d x) r = readReg s r := by
  cases d with
  | a => cases r with
    | bufA w => exact absurd rfl (h w)
    | _ => rfl
  | b => cases r with
    | bufB w => exact absurd rfl (h w)
    | _ => rfl

section
variable (d : BufSel) {w : Nat} (hw : w < 16)
include hw

theorem readReg_window_store (v : Word) (s : State) :
    readReg (storeGuarded (windowReg d w) v s) (windowReg d w) = v := by
  rw [storeGuarded_windowReg, readReg_windowReg, setBuf_buf, if_pos rfl, bufferWord_writeBufferWord _ _ _ _ hw,
    if_pos rfl]

theorem readReg_window_store_of_ne {r : Reg} (ne : windowReg d w ≠ r) (v : Word) (s : State) :
    readReg (storeGuarded (windowReg d w) v s) r = readReg s r := by
  rw [storeGuarded_windowReg]
  by_cases sameBuffer : ∃ w', r = windowReg d w'
  · obtain ⟨w', rfl⟩ := sameBuffer
    have other : w' ≠ w := fun e => ne (congrArg (windowReg d) e.symm)
    rw [readReg_windowReg, readReg_windowReg, setBuf_buf, if_pos rfl, bufferWord_writeBufferWord _ _ _ _ hw,
      if_neg other]
  · exact readReg_setBuf_of_ne (not_exists.1 sameBuffer) _ s

end

/-- A guarded register reads back as the written word's fields. -/
theorem readReg_storeGuarded_self {r : Reg} {mask : Word} (h : r.fields = some mask)
    (window : ∀ d w, r = windowReg d w → w < 16) (v : Word) (s : State) :
    readReg (storeGuarded r v s) r = v &&& mask := by
  have whole : v = v &&& 0xFFFFFFFF#32 := (BitVec.and_allOnes (x := v)).symm
  cases r with
  | ctrl => cases h; exact ctrlWord_storeGuarded v s
  | nmatch | frmk => cases h; exact setWidth_extractLsb'_low v _ 4 (by decide)
  | maxatt => cases h; exact setWidth_extractLsb'_low v _ 16 (by decide)
  | plen => cases h; exact setWidth_extractLsb'_low v _ 5 (by decide)
  | pat0 | pat1 | sentLo | sentHi => cases h; exact whole
  | bufA w => cases h; exact (readReg_window_store .a (window .a w rfl) v s).trans whole
  | bufB w => cases h; exact (readReg_window_store .b (window .b w rfl) v s).trans whole
  | _ => cases h

/-- Every other register reads as before: outside the windows each register shows a field of its own. -/
theorem readReg_storeGuarded_of_ne {r r' : Reg} (ne : r ≠ r') (window : ∀ d w, r = windowReg d w → w < 16) (v : Word)
    (s : State) : readReg (storeGuarded r v s) r' = readReg s r' := by
  cases r with
  | bufA w => exact readReg_window_store_of_ne .a (window .a w rfl) ne v s
  | bufB w => exact readReg_window_store_of_ne .b (window .b w rfl) ne v s
  | _ => cases r' <;> first | rfl | exact absurd rfl ne

/-- The guarded ranges of the window, each with its registers' fields. -/
theorem fields_regAt {off : Offset} {v mask : Word}
    (h : (off.toNat / 4 = 0x001 ∧ v.getLsbD 31 = false ∧ mask = 0x000000F7#32) ∨
      (off.toNat / 4 = 0x014 / 4 ∧ mask = 0x0000000F#32) ∨ (off.toNat / 4 = 0x018 / 4 ∧ mask = 0x0000FFFF#32) ∨
      (off.toNat / 4 = 0x01C / 4 ∧ mask = 0x0000001F#32) ∨ (off.toNat / 4 = 0x030 / 4 ∧ mask = 0x0000000F#32) ∨
      (0x020 ≤ off.toNat ∧ off.toNat ≤ 0x02F ∧ mask = 0xFFFFFFFF#32) ∨
      (0x100 ≤ off.toNat ∧ off.toNat ≤ 0x17F ∧ mask = 0xFFFFFFFF#32)) :
    (regAt off).fields = some mask ∧ (regAt off = .ctrl → v.getLsbD 31 = false) := by
  rw [regAt_of_div off rfl]
  rcases h with ⟨word, notReset, rfl⟩ | ⟨word, rfl⟩ | ⟨word, rfl⟩ | ⟨word, rfl⟩ | ⟨word, rfl⟩ | ⟨low, high, rfl⟩ |
    ⟨low, high, rfl⟩
  case inl => rw [word]; exact ⟨rfl, fun _ => notReset⟩
  case inr.inr.inr.inr.inr.inl =>
    have words : 8 ≤ off.toNat / 4 ∧ off.toNat / 4 ≤ 11 := by omega
    generalize off.toNat / 4 = n at words
    obtain ⟨low, high⟩ := words
    interval_cases n <;> exact ⟨rfl, nofun⟩
  case inr.inr.inr.inr.inr.inr =>
    exact (fields_regOfWord_window (n := off.toNat / 4) (by omega)).imp_right fun other isCtrl => absurd isCtrl other
  all_goals rw [word]; exact ⟨rfl, nofun⟩

/-- Settles O6: the guard is open while idle, so the write stores its register's fields and no other register's. -/
theorem guardedWriteWhileIdleReadsBack : Obligations.GuardedWriteWhileIdleReadsBack := by
  intro s off v mask idle hoff
  obtain ⟨hfields, notReset⟩ := fields_regAt hoff
  have window : ∀ d w, regAt off = windowReg d w → w < 16 := fun d w => window_word_lt off
  have named : regAt off ≠ .reserved := fun e => by rw [e] at hfields; cases hfields
  have stores : busWrite off v s = storeGuarded (regAt off) v s := by
    rw [busWrite_of_regAt rfl, writeReg_of_fields hfields notReset, guardedWrite_of_idle idle]
  rw [stores]
  refine ⟨readReg_storeGuarded_self hfields window v s, fun off' other => ?_, storeGuarded_xcmd _ v s,
    storeGuarded_flags _ v s, storeGuarded_code _ v s, storeGuarded_phase _ v s⟩
  exact readReg_storeGuarded_of_ne (regAt_ne other named) window v s

end Sys2Proof.Machine
end

section
/-! PROOFS. The scans' configuration and start, what every unit leaves behind, and the course of an address scan over a
feed of units (10_state.md R45, 41_pattern_matcher.md R126 to R131, R137). -/

namespace Sys2Proof.Machine

/-! ## The pattern (R45) -/

theorem getElem?_pattern (s : State) {j : Nat} (hj : j < s.plen.toNat) (hj' : j < 16) :
    s.pattern[j]? = some (s.patDigit j) := by
  simp [State.pattern, hj, hj']

theorem windowDigit_eq (v : Word) (j : Nat) : windowDigit v j = v.extractLsb' (31 - 4 * j - 3) 4 := by
  rw [windowDigit, show 31 - 4 * j - 3 = 28 - 4 * j by omega]

/-- Settles O10: the pattern is the first LEN of the 16 digits. -/
theorem patternIsTheDigitsOfPat0AndPat1 : Obligations.PatternIsTheDigitsOfPat0AndPat1 := by
  intro s hlen
  refine ⟨by rw [length_pattern, min_eq_left hlen], fun j hj => ?_⟩
  rw [getElem?_pattern s hj (by omega), State.patDigit, windowDigit_eq, windowDigit_eq]

/-! ## Dispatch (R127, R131) -/

/-- Settles O27: the check is R127's, and each of its outcomes has its effect. -/
theorem scanaStartsWhenConfigured : Obligations.ScanaStartsWhenConfigured := by
  intro s
  rw [← legalScana_iff]
  refine ⟨fun legal => if_pos legal, fun illegal => ?_⟩
  have refuses : exec .scana s = .next (finish .cfg s) := if_neg illegal
  rw [refuses, finish_error rfl]

/-- Settles O28: the check is R131's, and each of its outcomes has its effect. -/
theorem scansStartsWhenConfigured : Obligations.ScansStartsWhenConfigured := by
  intro s
  rw [← legalScans_iff]
  refine ⟨fun legal => if_pos legal, fun illegal => ?_⟩
  have refuses : exec .scans s = .next (finish .cfg s) := if_neg illegal
  rw [refuses, finish_error rfl]

/-! ## What every unit leaves behind (R126) -/

/-- The prologue's record of a unit of `c` bytes offered to `s`: the attempt, LAST, LASTCNT and SHORT. -/
structure Records (data : UnitValue) (c : BitVec 4) (s u : State) : Prop where
  attempt : u.acnt = s.acnt + 1
  last : u.last = assemble data c.toNat s.bord
  count : u.lastcnt = c
  short : u.flags.short = (s.flags.short || decide (0 < c.toNat ∧ c.toNat < s.uw.toNat))

/-- Nothing after the prologue of a unit step touches its record. -/
theorem Consumed.records {data : UnitValue} {c : BitVec 4} {s u : State} (h : Consumed data c s u) :
    Records data c s u := by
  have last := recordUnit_last data c s
  cases h <;> exact ⟨rfl, last, rfl, rfl⟩

theorem Records.finish {data : UnitValue} {c : BitVec 4} {s u : State} (h : Records data c s u) (code : Code) :
    Records data c s (finish code u) := ⟨h.attempt, h.last, h.count, h.short⟩

theorem unitStep_records {data : UnitValue} {c : BitVec 4} {s : State} (requested : uReq s = true)
    (within : c.toNat ≤ s.uw.toNat) : Records data c s (unitStep data c s) := by
  obtain ⟨u, consumed, ⟨code, e⟩ | ⟨e, -⟩⟩ := unitStep_of_consumed (data := data) requested within
  · rw [e]
    exact consumed.records.finish code
  · rw [e]
    exact consumed.records

/-- Settles O30: a unit beyond the read width is one attempt and the completion; any other leaves its record. -/
theorem unitStepRecordsTheUnit : Obligations.UnitStepRecordsTheUnit := by
  intro s data c hmeets scanning
  have requested : uReq s.rest = true := (uReq_iff s).2 scanning
  refine ⟨fun excess => ?refused, fun within => ?recorded⟩
  case refused =>
    rw [step_unitOffer hmeets, unitStep_of_excess (s := s.rest) requested excess, finish_error rfl]
    rfl
  case recorded =>
    obtain ⟨attempt, last, count, short⟩ := unitStep_records (data := data) (s := s.rest) requested within
    exact ⟨_, step_unitOffer hmeets, attempt, last, count, short⟩

/-! ## Runs -/

theorem run_zero (s : State) : Sys2Proof.core.run 0 s = .next s := rfl

/-- A run goes on from the state its first part answers. -/
theorem run_add {s t : State} {j : Nat} (h : Sys2Proof.core.run j s = .next t) (k : Nat) :
    Sys2Proof.core.run (j + k) s = Sys2Proof.core.run k t := by
  induction j generalizing s with
  | zero => rw [Host.Outcome.next.inj h, Nat.zero_add]
  | succ j ih =>
    obtain ⟨s', stepped⟩ := everyStateStepsOn s
    rw [run_succ_of_step (M := Sys2Proof.core) stepped] at h
    rw [Nat.add_right_comm, run_succ_of_step (M := Sys2Proof.core) stepped]
    exact ih h

/-- A run and the step after it. -/
theorem run_succ {s t t' : State} {k : Nat} (ran : Sys2Proof.core.run k s = .next t) (stepped : step t = .next t') :
    Sys2Proof.core.run (k + 1) s = .next t' :=
  (run_add ran 1).trans (run_succ_of_step (M := Sys2Proof.core) stepped 0)

/-! ## An address scan over a feed of units -/

/-- Where an address scan that began in `s` stands: after `k` attempts and `m` matches, with the events `l` to come. -/
structure Scanning (s t : State) (k m : Nat) (l : List Input) : Prop where
  phase : t.phase = .scana
  code : t.code = s.code
  released : t.resetPin = false
  frozen : t.frozen = s.frozen
  attempts : t.acnt.toNat = k
  found : t.mcnt.toNat = m
  inputs : t.inputs = l

/-- Whether a unit matches depends on the configuration alone. -/
theorem unitMatches_of_frozen {s t : State} (h : t.frozen = s.frozen) : unitMatches t = unitMatches s := by
  obtain ⟨bord, rend, -, -, -, plen, pat0, pat1, -⟩ := (frozen_eq_iff s t).1 h
  have digits : t.patDigit = s.patDigit := by
    funext j
    rw [State.patDigit, State.patDigit, pat0, pat1]
  funext u
  rw [unitMatches, unitMatches, State.pattern, State.pattern, digits, plen, bord, rend]

theorem isSome_addressMatch_recordUnit (s : State) (u : UnitValue × BitVec 4) :
    (addressMatch (recordUnit u.1 u.2 s)).isSome = unitMatches s u := by
  rw [addressMatch_recordUnit, unitMatches]
  by_cases empty : u.2 = 0
  · rw [if_pos empty, decide_eq_false (not_not.2 empty)]
    rfl
  · rw [if_neg empty, decide_eq_true empty, Bool.true_and]

theorem scanaCap_of_below {s : State} (h : s.acnt ≠ s.maxatt) : scanaCap s = s := if_neg h

theorem scanaCap_of_reached {s : State} (h : s.acnt = s.maxatt) : scanaCap s = finish .discTimeout s := if_pos h

section
variable {s t : State} {u : UnitValue × BitVec 4} {k m : Nat} {l : List Input}
  (h : Scanning s t k m (.unitOffer u.1 u.2 :: l)) (within : u.2.toNat ≤ s.uw.toNat)
include h within

/-- The next unit is consumed, as SCANA's. -/
theorem Scanning.step_eq : step t = .next (scanaUnit (recordUnit u.1 u.2 t.rest)) := by
  obtain ⟨-, -, uw, -⟩ := (frozen_eq_iff s t).1 h.frozen
  have hmeets : t.meets (.unitOffer u.1 u.2) := ⟨h.released, by rw [State.event, h.inputs, List.head?_cons]⟩
  exact step_unit_of_scana hmeets (uw ▸ within) h.phase

omit within in
theorem Scanning.isSome_addressMatch : (addressMatch (recordUnit u.1 u.2 t.rest)).isSome = unitMatches s u := by
  rw [isSome_addressMatch_recordUnit, unitMatches_of_frozen (s := s) (t := t.rest) h.frozen]

omit within in
theorem Scanning.inputs_rest : t.rest.inputs = l := by
  rw [rest_inputs, h.inputs, List.tail_cons]

omit within in
/-- The attempt counter does not wrap below the cap. -/
theorem Scanning.attempt (attempts : k + 1 ≤ s.maxatt.toNat) : (t.acnt + 1).toNat = k + 1 := by
  have below : t.acnt.toNat < s.maxatt.toNat := by rw [h.attempts]; exact attempts
  rw [toNat_succ_of_lt below, h.attempts]

omit within in
theorem Scanning.matchCount (found : m + 1 ≤ s.nmatch.toNat) : (t.mcnt + 1).toNat = m + 1 := by
  have below : t.mcnt.toNat < s.nmatch.toNat := by rw [h.found]; exact found
  rw [toNat_succ_of_lt below, h.found]

/-- A unit before the last attempt and before the N-th match leaves the scan running (R128). -/
theorem Scanning.goesOn (attempts : k + 1 < s.maxatt.toNat)
    (found : m + (if unitMatches s u then 1 else 0) < s.nmatch.toNat) :
    ∃ t', step t = .next t' ∧ Scanning s t' (k + 1) (m + if unitMatches s u then 1 else 0) l := by
  obtain ⟨-, -, -, nmatch, maxatt, -⟩ := (frozen_eq_iff s t).1 h.frozen
  have attempt := h.attempt attempts.le
  have belowCap : t.acnt + 1 ≠ t.maxatt := by
    rw [maxatt]
    exact fun e => attempts.ne (attempt.symm.trans (congrArg BitVec.toNat e))
  have matched := h.isSome_addressMatch
  rw [h.step_eq within]
  refine ⟨_, rfl, ?_⟩
  cases atP : addressMatch (recordUnit u.1 u.2 t.rest) with
  | none =>
    rw [atP] at matched
    have stays : scanaUnit (recordUnit u.1 u.2 t.rest) = recordUnit u.1 u.2 t.rest :=
      (scanaUnit_of_no_match atP).trans (scanaCap_of_below belowCap)
    rw [stays, ← matched]
    exact ⟨h.phase, h.code, h.released, h.frozen, attempt, h.found, h.inputs_rest⟩
  | some p =>
    rw [atP] at matched
    rw [← matched] at found ⊢
    have count := h.matchCount found.le
    have belowN : t.mcnt + 1 ≠ t.nmatch := by
      rw [nmatch]
      exact fun e => found.ne (count.symm.trans (congrArg BitVec.toNat e))
    have counts : scanaUnit (recordUnit u.1 u.2 t.rest) = countMatch p (recordUnit u.1 u.2 t.rest) :=
      ((scanaUnit_of_match atP).trans (if_neg belowN)).trans (scanaCap_of_below belowCap)
    rw [counts]
    exact ⟨h.phase, h.code, h.released, h.frozen, attempt, count, h.inputs_rest⟩

/-- The unit of the N-th match ends the scan with FOUND, the last attempt or not (R128, R129). -/
theorem Scanning.endsFound (attempts : k + 1 ≤ s.maxatt.toNat) (found : m + 1 = s.nmatch.toNat)
    (isMatch : unitMatches s u = true) :
    ∃ t', step t = .next t' ∧ t'.phase = .idle ∧ t'.code = .found ∧ t'.flags.found = true ∧
      t'.mcnt = s.nmatch ∧ t'.acnt.toNat = k + 1 := by
  obtain ⟨-, -, -, nmatch, -⟩ := (frozen_eq_iff s t).1 h.frozen
  obtain ⟨p, atP⟩ := Option.isSome_iff_exists.1 (h.isSome_addressMatch.trans isMatch)
  have count : t.mcnt + 1 = s.nmatch := BitVec.eq_of_toNat_eq ((h.matchCount found.le).trans found)
  have reached : t.mcnt + 1 = t.nmatch := count.trans nmatch.symm
  have ends : scanaUnit (recordUnit u.1 u.2 t.rest) = finish .found (countMatch p (recordUnit u.1 u.2 t.rest)) :=
    (scanaUnit_of_match atP).trans (if_pos reached)
  refine ⟨_, h.step_eq within, ?_⟩
  rw [ends]
  exact ⟨rfl, rfl, Bool.or_true _, count, h.attempt attempts⟩

/-- The last attempt ends the scan with DISC_TIMEOUT if it does not match (R129). -/
theorem Scanning.endsTimeout (attempts : k + 1 = s.maxatt.toNat) (misses : unitMatches s u = false) :
    ∃ t', step t = .next t' ∧ t'.phase = .idle ∧ t'.code = .discTimeout ∧ t'.flags.err = true ∧
      t'.acnt = s.maxatt ∧ t'.mcnt.toNat = m := by
  obtain ⟨-, -, -, -, maxatt, -⟩ := (frozen_eq_iff s t).1 h.frozen
  have absent : addressMatch (recordUnit u.1 u.2 t.rest) = none :=
    Option.not_isSome_iff_eq_none.1 (by rw [h.isSome_addressMatch, misses]; exact Bool.false_ne_true)
  have count : t.acnt + 1 = s.maxatt := BitVec.eq_of_toNat_eq ((h.attempt attempts.le).trans attempts)
  have reached : t.acnt + 1 = t.maxatt := count.trans maxatt.symm
  have ends : scanaUnit (recordUnit u.1 u.2 t.rest) = finish .discTimeout (recordUnit u.1 u.2 t.rest) :=
    (scanaUnit_of_no_match absent).trans (scanaCap_of_reached reached)
  refine ⟨_, h.step_eq within, ?_⟩
  rw [ends]
  exact ⟨rfl, rfl, Bool.or_true _, count, h.found⟩

end

/-- A scan runs through every feed that reaches neither its attempt cap nor its N-th match. -/
theorem Scanning.run {s : State} (us : List (UnitValue × BitVec 4)) {t : State} {k m : Nat} {l : List Input}
    (h : Scanning s t k m (offers us ++ l)) (within : ∀ x ∈ us, x.2.toNat ≤ s.uw.toNat)
    (attempts : k + us.length < s.maxatt.toNat) (found : m + us.countP (unitMatches s) < s.nmatch.toNat) :
    ∃ t', Sys2Proof.core.run us.length t = .next t' ∧
      Scanning s t' (k + us.length) (m + us.countP (unitMatches s)) l := by
  induction us generalizing t k m with
  | nil => exact ⟨t, run_zero t, h⟩
  | cons u us ih =>
    rw [List.length_cons] at attempts ⊢
    rw [List.countP_cons] at found ⊢
    obtain ⟨t', stepped, h'⟩ := h.goesOn (within u List.mem_cons_self) (by omega) (by omega)
    obtain ⟨t'', ran, h''⟩ := ih h' (fun x hx => within x (List.mem_cons_of_mem u hx)) (by omega) (by omega)
    refine ⟨t'', (run_succ_of_step (M := Sys2Proof.core) stepped us.length).trans ran, ?_⟩
    convert h'' using 1 <;> omega

theorem offers_append (us vs : List (UnitValue × BitVec 4)) : offers (us ++ vs) = offers us ++ offers vs :=
  List.map_append

/-- The start of a scan whose feed ends with the unit `u`. -/
theorem scanning_of_start {s : State} (phase : s.phase = .scana) (released : s.resetPin = false) (found : s.mcnt = 0)
    (attempts : s.acnt = 0) {us : List (UnitValue × BitVec 4)} {u : UnitValue × BitVec 4} {l : List Input}
    (inputs : s.inputs = offers (us ++ [u]) ++ l) : Scanning s s 0 0 (offers us ++ (.unitOffer u.1 u.2 :: l)) := by
  rw [offers_append, List.append_assoc] at inputs
  exact ⟨phase, rfl, released, rfl, congrArg BitVec.toNat attempts, congrArg BitVec.toNat found, inputs⟩

/-- A scan runs through every beginning of such a feed. -/
theorem Scanning.run_take {s : State} {us : List (UnitValue × BitVec 4)} {l : List Input}
    (start : Scanning s s 0 0 (offers us ++ l)) (within : ∀ x ∈ us, x.2.toNat ≤ s.uw.toNat) {k : Nat}
    (hk : k ≤ us.length) (attempts : k < s.maxatt.toNat) (found : us.countP (unitMatches s) < s.nmatch.toNat) :
    ∃ t, Sys2Proof.core.run k s = .next t ∧
      Scanning s t k ((us.take k).countP (unitMatches s)) (offers (us.drop k) ++ l) := by
  have length : (us.take k).length = k := List.length_take_of_le hk
  have fewer : (us.take k).countP (unitMatches s) ≤ us.countP (unitMatches s) :=
    (List.take_sublist k us).countP_le
  have split : offers us ++ l = offers (us.take k) ++ (offers (us.drop k) ++ l) := by
    rw [← List.append_assoc, ← offers_append, List.take_append_drop]
  have ran := (split ▸ start).run (us.take k) (fun x hx => within x (List.mem_of_mem_take hx)) (by omega) (by omega)
  simpa only [length, Nat.zero_add] using ran

/-- Settles O34: the scan runs through the units before the N-th match, and that one ends it. -/
theorem foundExactlyAtTheNthMatch : Obligations.FoundExactlyAtTheNthMatch := by
  intro s us u rest phase released configured mcnt acnt inputs within cap matchesBefore lastMatches
  have start := scanning_of_start phase released mcnt acnt inputs
  have withinBefore : ∀ x ∈ us, x.2.toNat ≤ s.uw.toNat := fun x hx => within x (List.mem_append_left _ hx)
  have runs := fun k (hk : k ≤ us.length) =>
    start.run_take withinBefore hk (by omega) (by omega)
  refine ⟨?ended, fun k hk => ?running⟩
  case running =>
    obtain ⟨t, ran, h⟩ := runs k hk
    exact ⟨t, ran, h.phase, h.code, h.found⟩
  case ended =>
    obtain ⟨t, ran, h⟩ := runs us.length le_rfl
    rw [List.drop_length, List.take_length] at h
    have withinLast := within u (List.mem_append_right us List.mem_cons_self)
    obtain ⟨t', stepped, effect⟩ := h.endsFound withinLast cap matchesBefore lastMatches
    exact ⟨t', run_succ ran stepped, effect⟩

/-- Settles O35: the scan runs through the units before the MAX-th attempt, and that one ends it. -/
theorem timeoutExactlyAtTheLastAttempt : Obligations.TimeoutExactlyAtTheLastAttempt := by
  intro s us rest phase released configured mcnt acnt inputs within cap misses
  obtain ⟨hn, hmax, -⟩ := configured
  have someMatches : 0 < s.nmatch.toNat := toNat_pos_of_ne_zero hn
  have someAttempts : 0 < s.maxatt.toNat := toNat_pos_of_ne_zero hmax
  obtain rfl | ⟨us, u, rfl⟩ := us.eq_nil_or_concat
  · exact absurd cap someAttempts.ne
  rw [List.concat_eq_append] at inputs within cap misses ⊢
  rw [List.length_append, List.length_singleton] at cap ⊢
  have start := scanning_of_start phase released mcnt acnt inputs
  have withinBefore : ∀ x ∈ us, x.2.toNat ≤ s.uw.toNat := fun x hx => within x (List.mem_append_left _ hx)
  have missesBefore : us.countP (unitMatches s) = 0 :=
    List.countP_eq_zero.2 fun x hx => Bool.eq_false_iff.1 (misses x (List.mem_append_left _ hx))
  have runs := fun k (hk : k ≤ us.length) =>
    start.run_take withinBefore hk (by omega) (by omega)
  refine ⟨?ended, fun k hk => ?running⟩
  case running =>
    obtain ⟨t, ran, h⟩ := runs k (Nat.lt_succ_iff.1 hk)
    exact ⟨t, ran, h.phase, h.attempts⟩
  case ended =>
    obtain ⟨t, ran, h⟩ := runs us.length le_rfl
    rw [List.drop_length, List.take_length, missesBefore] at h
    have last : u ∈ us ++ [u] := List.mem_append_right us List.mem_cons_self
    obtain ⟨t', stepped, idle, code, err, acnt', mcnt'⟩ := h.endsTimeout (within u last) cap (misses u last)
    exact ⟨t', run_succ ran stepped, idle, code, err, acnt', BitVec.eq_of_toNat_eq mcnt'⟩

end Sys2Proof.Machine
end

section
/-! PROOFS. The dispatch step, NOP and ABORT at dispatch (40_command_control.md R102, R104, R106). -/

namespace Sys2Proof.Machine

theorem dispatchStep_of_legal {s : State} {i : Instr} (h : decode s.xcmd = .ok i) : dispatchStep s = exec i s := by
  rw [dispatchStep, h]

theorem sfsTurn_of_not_pending {s : State} (h : s.phase ≠ .pending) : sfsTurn s = .next s :=
  if_neg fun enabled => h enabled.1

/-- Settles O16: the SFS's turn in PENDING is the dispatch step. -/
theorem stepRunsTheDecodedCommand : Obligations.StepRunsTheDecodedCommand := by
  intro s i moves pending decoded
  rw [step_sfsMoves moves, sfsTurn_of_pending (s := s.rest) pending moves.1,
    dispatchStep_of_legal (s := s.rest) decoded]

/-- Settles O17: the SFS's turn in any other phase is none. -/
theorem sfsRestsUnlessPending : Obligations.SfsRestsUnlessPending := by
  intro s moves notPending
  rw [step_sfsMoves moves, sfsTurn_of_not_pending (s := s.rest) notPending]

/-- What an OK completion sets (60_exceptions.md R211, R212). -/
theorem finish_ok (s : State) :
    finish .ok s = { s with code := .ok, phase := .idle, flags := { s.flags with done := true } } := by
  rw [finish, complete_ok]

theorem exec_nop (s : State) : exec .nop s = .next (finish .ok s) := rfl

theorem exec_abort (s : State) : exec .abort s = .next (finish .ok s) := rfl

/-- Settles O22: NOP is an OK completion. -/
theorem nopCompletesOk : Obligations.NopCompletesOk := by
  intro s
  rw [exec_nop, finish_ok]

/-- Settles O21: at its dispatch ABORT finds nothing to cancel, so it is an OK completion. -/
theorem abortWhileIdleCompletesOk : Obligations.AbortWhileIdleCompletesOk := by
  intro s
  rw [exec_abort, finish_ok]

end Sys2Proof.Machine
end

section
/-! PROOFS. The transforms together: CVT's refusal, CLR, REMAP as an involution, REMAP against REORD, and a transform
run again (42_endian_reorder.md R162, 43_field_remap.md R175 to R179, 44_convert_clear.md R191, R195, R196). -/

namespace Sys2Proof.Machine

/-! ## CVT and CLR at dispatch -/

theorem exec_cvt_of_illegal {off : Nat} (h : ¬ legalCvt off = true) (src : BufSel) (s : State) :
    exec (.cvt src off) s = .next (finish .range s) := if_neg h

theorem exec_clr (src : BufSel) (s : State) :
    exec (.clr src) s = .next (finish .ok (s.setBuf src clearedBuffer)) := rfl

/-- Settles O44: the legality check is R191's bound, and each of its outcomes has its completion. -/
theorem cvtRefusesOffsetsOutsideTheBuffer : Obligations.CvtRefusesOffsetsOutsideTheBuffer := by
  intro s src off
  rw [← not_le, ← legalCvt_iff]
  refine ⟨fun legal => ⟨_, exec_cvt_of_legal legal src s, finish_code _ _⟩, fun illegal => ?refused⟩
  rw [exec_cvt_of_illegal illegal, finish_error rfl]

/-- Settles O45: CLR writes the cleared buffer, and no other. -/
theorem clrClearsItsBuffer : Obligations.ClrClearsItsBuffer := by
  intro s src
  refine ⟨_, exec_clr src s, fun i _ => ?cleared, fun e other => ?kept, finish_ok_setBuf_frame src _ s⟩
  case cleared => rw [finish_buf, setBuf_buf, if_pos rfl, digitAt_clearedBuffer]
  case kept => rw [finish_buf, setBuf_buf, if_neg other]

/-! ## REMAP twice in place -/

/-- A digit of a group is moved within its group, and moved back by the same move (R177). -/
theorem groupPerm_lt : ∀ j < 12, groupPerm j < 12 := by decide
theorem groupPerm_groupPerm : ∀ j < 12, groupPerm (groupPerm j) = j := by decide

/-- A digit of the groups is digit `j` of group `n`. -/
theorem exists_group {base g k : Nat} (h : base ≤ k ∧ k < base + 12 * g) :
    ∃ n < g, ∃ j < 12, k = base + 12 * n + j :=
  ⟨(k - base) / 12, by omega, (k - base) % 12, by omega, by omega⟩

theorem remapIndex_inside {base g k : Nat} (h : base ≤ k ∧ k < base + 12 * g) :
    base ≤ remapIndex base k ∧ remapIndex base k < base + 12 * g := by
  obtain ⟨n, hn, j, hj, rfl⟩ := exists_group h
  have := groupPerm_lt j hj
  rw [remapIndex_group base n hj]
  omega

theorem remapIndex_remapIndex {base g k : Nat} (h : base ≤ k ∧ k < base + 12 * g) :
    remapIndex base (remapIndex base k) = k := by
  obtain ⟨n, -, j, hj, rfl⟩ := exists_group h
  rw [remapIndex_group base n hj, remapIndex_group base n (groupPerm_lt j hj), groupPerm_groupPerm j hj]

theorem remapped_remapped (b : Buffer) {base g : Nat} (legal : legalRemap base g = true) :
    remapped (remapped b b base g) (remapped b b base g) base g = b := by
  apply buffer_ext
  intro k _
  rw [digitAt_remapped _ _ legal, digitAt_remapped _ _ legal, digitAt_remapped _ _ legal]
  by_cases inside : base ≤ k ∧ k < base + 12 * g
  · rw [if_pos inside, if_pos (remapIndex_inside inside), remapIndex_remapIndex inside]
  · rw [if_neg inside, if_neg inside]

/-- Two OK completions, the second with the buffer written back, are one. -/
theorem finish_ok_restore (d : BufSel) (x : Buffer) (s : State) :
    finish .ok ((finish .ok (s.setBuf d x)).setBuf d (s.buf d)) = finish .ok s := by
  rw [finish_ok, finish_ok, finish_ok]
  cases d <;> rfl

/-- Settles O41: the two moves of every group undo each other. -/
theorem remapTwiceInPlaceRestores : Obligations.RemapTwiceInPlaceRestores := by
  intro s src base g atLeastOne fits
  have legal : legalRemap base g = true := (legalRemap_iff base g).2 ⟨atLeastOne, fits⟩
  refine ⟨_, exec_remap_of_legal legal src src s, ?_⟩
  have once : (afterRemap src src base g s).buf src = remapped (s.buf src) (s.buf src) base g := by
    rw [afterRemap, finish_buf, setBuf_buf, if_pos rfl]
  have twice : afterRemap src src base g (afterRemap src src base g s) = finish .ok s := by
    rw [afterRemap, once, remapped_remapped _ legal, afterRemap, finish_ok_restore]
  rw [exec_remap_of_legal legal, twice, finish_ok]

/-! ## REORD and REMAP over whole groups -/

/-- Reversing a group's bytes and moving its digits commute: this is R179's commuting case, for one group. -/
theorem groupPerm_reordIndex : ∀ j < 12, groupPerm (reordIndex 11 j) = reordIndex 11 (groupPerm j) := by decide
theorem reordIndex_group_lt : ∀ j < 12, reordIndex 11 j < 12 := by decide

/-- Reversing `g` groups reverses their order, and each group within itself. -/
theorem reordIndex_group {g n j : Nat} (hn : n < g) (hj : j < 12) :
    reordIndex (12 * g - 1) (0 + 12 * n + j) = 0 + 12 * (g - 1 - n) + reordIndex 11 j := by
  rcases Nat.mod_two_eq_zero_or_one j with even | odd
  · rw [reordIndex_of_even even, reordIndex_of_even (by omega)]
    omega
  · rw [reordIndex_of_odd odd, reordIndex_of_odd (by omega)]
    omega

theorem reordIndex_remapIndex {g i : Nat} (hi : i < 12 * g) :
    reordIndex (12 * g - 1) (remapIndex 0 i) = remapIndex 0 (reordIndex (12 * g - 1) i) := by
  obtain ⟨n, hn, j, hj, rfl⟩ := exists_group (base := 0) (g := g) (k := i) (by omega)
  rw [remapIndex_group 0 n hj, reordIndex_group hn (groupPerm_lt j hj), reordIndex_group hn hj,
    remapIndex_group 0 _ (reordIndex_group_lt j hj), groupPerm_reordIndex j hj]

/-- Settles O42: either way every digit of the groups comes from the same digit of the source. -/
theorem reordAndRemapCommuteOnWholeGroups : Obligations.ReordAndRemapCommuteOnWholeGroups := by
  intro s src dst g atLeastOne fits
  have reord : legalReord (12 * g - 1) 0 = true := (legalReord_iff _ _).2 (by omega)
  have remap : legalRemap 0 g = true := (legalRemap_iff _ _).2 (by omega)
  refine ⟨_, _, _, _, exec_reord_of_legal reord src dst s, exec_remap_of_legal remap dst dst _,
    exec_remap_of_legal remap src src s, exec_reord_of_legal reord src dst _, fun i hi => ?_⟩
  have moved : remapIndex 0 i < 12 * g := by
    have := remapIndex_inside (base := 0) (g := g) (k := i) (by omega)
    omega
  have reversed : reordIndex (12 * g - 1) i < 12 * g := by
    have := reordIndex_le (hi := 12 * g - 1) (lo := 0) (i := i) rfl (by omega) (by omega)
    rw [Nat.sub_zero] at this
    omega
  rw [digitAt_afterRemap _ _ remap, if_pos (by omega), digitAt_afterReord _ _ reord, if_pos (by omega),
    digitAt_afterReord _ _ reord, if_pos (by omega), digitAt_afterRemap _ _ remap, if_pos (by omega),
    reordIndex_remapIndex hi]

/-! ## A transform run again from the same source (R196) -/

/-- What a transform's result is compared by. -/
def SameResult (t t' : State) : Prop :=
  t'.bufA = t.bufA ∧ t'.bufB = t.bufB ∧ t'.res = t.res ∧ t'.code = t.code

theorem writeDigits_writeDigits (b : Buffer) (lo n : Nat) (f : Nat → Digit) :
    writeDigits (writeDigits b lo n f) lo n f = writeDigits b lo n f := by
  apply buffer_ext
  intro i _
  rw [digitAt_writeDigits, digitAt_writeDigits]
  split <;> rfl

theorem reordered_reordered (src dst : Buffer) (hi lo : Nat) :
    reordered src (reordered src dst hi lo) hi lo = reordered src dst hi lo := writeDigits_writeDigits ..

theorem remapped_again (src dst : Buffer) (base g : Nat) :
    remapped src (remapped src dst base g) base g = remapped src dst base g := writeDigits_writeDigits ..

section
variable {s s' t : State} (buffers : ∀ d, s'.buf d = t.buf d) (res : s'.res = t.res)
include buffers res

/-- A refusal writes nothing, whenever it is made. -/
theorem sameResult_finish {c : Code} (ht : t = finish c s) : SameResult t (finish c s') :=
  ⟨buffers .a, buffers .b, res, (congrArg State.code ht).symm⟩

/-- A write `f` to one buffer from the other: done again, it gives the destination again. -/
theorem sameResult_write (f : Buffer → Buffer → Buffer) (again : ∀ x y, f x (f x y) = f x y) {src dst : BufSel}
    (ne : src ≠ dst) (ht : t = finish .ok (s.setBuf dst (f (s.buf src) (s.buf dst)))) :
    SameResult t (finish .ok (s'.setBuf dst (f (s'.buf src) (s'.buf dst)))) := by
  have source : t.buf src = s.buf src := by rw [ht, finish_buf, setBuf_buf, if_neg ne]
  have written : t.buf dst = f (s.buf src) (s.buf dst) := by rw [ht, finish_buf, setBuf_buf, if_pos rfl]
  have rewritten : f (s'.buf src) (s'.buf dst) = t.buf dst := by rw [buffers, buffers, source, written, again]
  have unchanged : ∀ d, (s'.setBuf dst (t.buf dst)).buf d = t.buf d := fun d => by
    rw [setBuf_buf, buffers]
    split
    next same => rw [same]
    next => rfl
  rw [rewritten]
  exact ⟨unchanged .a, unchanged .b, (setBuf_res s' dst _).trans res, (congrArg State.code ht).symm⟩

theorem reord_again {src dst : BufSel} (ne : src ≠ dst) {hi lo : Nat} (ran : exec (.reord src dst hi lo) s = .next t) :
    ∃ t', exec (.reord src dst hi lo) s' = .next t' ∧ SameResult t t' := by
  by_cases legal : legalReord hi lo = true
  · have ht := Host.Outcome.next.inj (ran.symm.trans (exec_reord_of_legal legal src dst s))
    exact ⟨_, exec_reord_of_legal legal src dst s', sameResult_write buffers res (fun x y => reordered x y hi lo)
      (fun x y => reordered_reordered x y hi lo) ne ht⟩
  · have ht := Host.Outcome.next.inj (ran.symm.trans (exec_reord_of_illegal legal src dst s))
    exact ⟨_, exec_reord_of_illegal legal src dst s', sameResult_finish buffers res ht⟩

theorem remap_again {src dst : BufSel} (ne : src ≠ dst) {base g : Nat}
    (ran : exec (.remap src dst base g) s = .next t) :
    ∃ t', exec (.remap src dst base g) s' = .next t' ∧ SameResult t t' := by
  by_cases legal : legalRemap base g = true
  · have ht := Host.Outcome.next.inj (ran.symm.trans (exec_remap_of_legal legal src dst s))
    exact ⟨_, exec_remap_of_legal legal src dst s', sameResult_write buffers res (fun x y => remapped x y base g)
      (fun x y => remapped_again x y base g) ne ht⟩
  · have ht := Host.Outcome.next.inj (ran.symm.trans (exec_remap_of_illegal legal src dst s))
    exact ⟨_, exec_remap_of_illegal legal src dst s', sameResult_finish buffers res ht⟩

theorem cvt_again {src : BufSel} {off : Nat} (ran : exec (.cvt src off) s = .next t) :
    ∃ t', exec (.cvt src off) s' = .next t' ∧ SameResult t t' := by
  by_cases legal : legalCvt off = true
  · have ht : t = afterCvt src off s := Host.Outcome.next.inj (ran.symm.trans (exec_cvt_of_legal legal src s))
    have source : s'.buf src = s.buf src := (buffers src).trans (by rw [ht]; exact finish_buf _ .ok src)
    have sameRes : (afterCvt src off s').res = t.res := by rw [ht, afterCvt_res, afterCvt_res, source]
    exact ⟨_, exec_cvt_of_legal legal src s', buffers .a, buffers .b, sameRes, (congrArg State.code ht).symm⟩
  · have ht := Host.Outcome.next.inj (ran.symm.trans (exec_cvt_of_illegal legal src s))
    exact ⟨_, exec_cvt_of_illegal legal src s', sameResult_finish buffers res ht⟩

theorem clr_again {src other : BufSel} (ne : src ≠ other) (ran : exec (.clr src) s = .next t) :
    ∃ t', exec (.clr src) s' = .next t' ∧ SameResult t t' := by
  have ht := Host.Outcome.next.inj (ran.symm.trans (exec_clr src s))
  exact ⟨_, exec_clr src s', sameResult_write buffers res (fun _ _ => clearedBuffer) (fun _ _ => rfl) ne.symm ht⟩

end

/-- Settles O46: each transform, run again where its source and its result stand, gives its result. -/
theorem transformsAreIdempotent : Obligations.TransformsAreIdempotent := by
  intro s t i src dst m n ne transform ran s' bufA bufB res
  have buffers : ∀ d, s'.buf d = t.buf d := fun d => by cases d <;> assumption
  rcases transform with rfl | rfl | rfl | rfl
  · exact reord_again buffers res ne ran
  · exact remap_again buffers res ne ran
  · exact cvt_again buffers res ran
  · exact clr_again buffers res ne ran

end Sys2Proof.Machine
end

section
/-! PROOFS. The interrupt output, what a reset leaves, and the machine while the reset input is asserted
(60_exceptions.md R220, 70_reset_and_hazards.md R240, R241). -/

namespace Sys2Proof.Machine

/-! ## The interrupt output -/

/-- Flag `j` of the six, DONE first (10_state.md R30 to R35). -/
def Flags.flag (f : Flags) : Nat → Bool
  | 0 => f.done
  | 1 => f.found
  | 2 => f.frame
  | 3 => f.err
  | 4 => f.bwe
  | 5 => f.short
  | _ => false

theorem getLsbD_bits (f : Flags) {j : Nat} (hj : j < 6) : f.bits.getLsbD j = f.flag j := by
  simp only [Flags.bits, BitVec.getLsbD_append]
  interval_cases j <;> simp [Flags.flag]

/-- The output looks at each flag with its enable (R220). -/
theorem irq_eq_any (s : State) : irq s = (List.range 6).any fun j => s.flags.flag j && s.ien.flag j := by
  simp [irq, Flags.flag, List.range_succ, Bool.or_assoc]

theorem irq_iff_exists_flag (s : State) :
    irq s = true ↔ ∃ j < 6, s.flags.flag j = true ∧ s.ien.flag j = true := by
  simp only [irq_eq_any, List.any_eq_true, List.mem_range, Bool.and_eq_true]

/-- Bits 6:1 of STATUS and of IEN are the flags and their enables. -/
theorem getLsbD_statusWord_flag (s : State) {j : Nat} (hj : j < 6) :
    (statusWord s).getLsbD (j + 1) = s.flags.flag j := by
  rw [getLsbD_statusWord, if_neg (by omega), if_pos (by omega), Nat.add_sub_cancel, getLsbD_bits _ hj]

theorem getLsbD_ienWord_flag (s : State) {j : Nat} (hj : j < 6) : (ienWord s).getLsbD (j + 1) = s.ien.flag j := by
  rw [getLsbD_ienWord, decide_eq_true (by omega), Bool.true_and, Nat.add_sub_cancel, getLsbD_bits _ hj]

/-- Settles O50: flag `j` is bit `j + 1` of STATUS, and its enable the same bit of IEN. -/
theorem irqIsAnEnabledPendingFlag : Obligations.IrqIsAnEnabledPendingFlag := by
  intro s
  rw [irq_iff_exists_flag, busRead_status, busRead_ien rfl]
  constructor
  · rintro ⟨j, hj, flag, enable⟩
    exact ⟨j + 1, by omega, by omega, (getLsbD_statusWord_flag s hj).trans flag,
      (getLsbD_ienWord_flag s hj).trans enable⟩
  · rintro ⟨i, low, high, flag, enable⟩
    obtain ⟨j, rfl⟩ : ∃ j, i = j + 1 := ⟨i - 1, by omega⟩
    have hj : j < 6 := by omega
    exact ⟨j, hj, (getLsbD_statusWord_flag s hj).symm.trans flag, (getLsbD_ienWord_flag s hj).symm.trans enable⟩

/-! ## The table of a reset (R240) -/

theorem readReg_resetAction (s : State) (r : Reg) : readReg (resetAction s) r = readReg State.reset r := by
  cases r <;> rfl

theorem bufferWord_clearedBuffer (w : Nat) : bufferWord clearedBuffer w = 0 := by
  simp only [bufferWord, digitAt_clearedBuffer]
  rfl

theorem readReg_reset (n : Nat) :
    readReg State.reset (regOfWord n) = if n = 0 then 0x53465331#32 else if n = 1 then 0x00000080#32 else 0 := by
  rcases regOfWord_cases n with named | ⟨w, -, rfl, e⟩ | ⟨w, -, rfl, e⟩ | e
  · interval_cases n <;> rfl
  · rw [e, if_neg (by omega), if_neg (by omega)]
    exact bufferWord_clearedBuffer w
  · rw [e, if_neg (by omega), if_neg (by omega)]
    exact bufferWord_clearedBuffer w
  · have notId : n ≠ 0 := fun h => by cases h ▸ e
    have notCtrl : n ≠ 1 := fun h => by cases h ▸ e
    rw [e, if_neg notId, if_neg notCtrl, readReg_reserved]

/-- Settles O53: either reset leaves a reset state, and the table is that state read off. -/
theorem resetGivesTheTable : Obligations.ResetGivesTheTable := by
  intro s resetting
  obtain ⟨t, stepped⟩ := everyStateStepsOn s
  have isReset : t = resetAction t := resetAction_of_resetting resetting stepped
  refine ⟨t, stepped, ?_⟩
  rw [isReset]
  refine ⟨fun off => ?words, rfl, rfl, rfl, rfl, rfl, rfl, fun i _ => ⟨?bufA, ?bufB⟩, rfl, rfl, rfl⟩
  case words => rw [busRead, readReg_resetAction, regAt, readReg_reset]
  case bufA => exact digitAt_clearedBuffer i
  case bufB => exact digitAt_clearedBuffer i

/-! ## While the reset input is asserted (R241) -/

/-- Settles O54: the release changes the level, and every other event is discarded. -/
theorem nothingHappensWhileReset : Obligations.NothingHappensWhileReset := by
  intro s asserted
  exact ⟨fun release => step_resetLevel release, fun other => step_held asserted other⟩

end Sys2Proof.Machine
end
